-- ==== Sys2Proof/Word.lean ====
section
/-! DEFINITION. The word types of the fuzzy link engine (00_scope.md rule R8): the byte (u8) and the
32-bit word (u32). No value of the block is signed. -/

namespace Sys2Proof

/-- A byte, u8 (00_scope.md rule R8). -/
abbrev Byte := BitVec 8

/-- A 32-bit word, u32: an address or a checksum (00_scope.md rule R8). -/
abbrev Word := BitVec 32

end Sys2Proof
end

