-- ==== Sys2Proof/Machine/Operands.lean ====
section
/-! DEFINITION. Byte order, the length byte, target addresses and the fields of a delivered packet
(20_memory.md rules R52, R57; 30_encoding.md rules R72, R91). Nothing is sign-extended. -/

namespace Sys2Proof.Machine

/-- Four bytes, most significant first, as a word: the ADDR expression of 30_encoding.md rule R91. -/
def beWord (b3 b2 b1 b0 : Byte) : Word :=
  (b3.setWidth 32 <<< 24) ||| (b2.setWidth 32 <<< 16) ||| (b1.setWidth 32 <<< 8) ||| b0.setWidth 32

/-- The bytes of a word, most significant first (20_memory.md rule R52(a)). -/
def beBytes (w : Word) : List Byte :=
  [w.extractLsb' 24 8, w.extractLsb' 16 8, w.extractLsb' 8 8, w.extractLsb' 0 8]

/-- Four bytes, least significant first, as a word (20_memory.md rule R52(b)). -/
def leWord (b0 b1 b2 b3 : Byte) : Word := beWord b3 b2 b1 b0

/-- The bytes of a word, least significant first (20_memory.md rule R52(b), 30_encoding.md rule R91). -/
def leBytes (w : Word) : List Byte :=
  [w.extractLsb' 0 8, w.extractLsb' 8 8, w.extractLsb' 16 8, w.extractLsb' 24 8]

/-- The length byte of a packet of length `len`: `(L - 1)[7:0]` (30_encoding.md rule R72). -/
def lengthByte (len : Nat) : Byte := BitVec.ofNat 8 (len - 1)

/-- The length a received length byte stands for: `v + 1` (30_encoding.md rule R72). -/
def lengthOf (v : Byte) : Nat := v.toNat + 1

/-- The address of data byte `j`: `(ADDR + j) mod 2^ADDR_BITS`, which is mod 2^32 (20_memory.md rules
R50, R57, 00_scope.md rule R6). -/
def addrOf (addrBits : Nat) (addr : Word) (j : Nat) : Word :=
  BitVec.ofNat 32 ((addr.toNat + j) % 2 ^ addrBits)

/-- The read count of payload byte 5: `byte5 + 1` (30_encoding.md rules R79, R91). -/
def countOf (countLess1 : Byte) : Nat := countLess1.toNat + 1

/-- The first `n` bytes of a number, the least significant first: how spec/opcode_table.json numbers
the bits of a row laid out as bytes. -/
def bytesOfNat : Nat → Nat → List Byte
  | 0, _ => []
  | n + 1, w => BitVec.ofNat 8 w :: bytesOfNat n (w / 256)

end Sys2Proof.Machine
end

