-- ==== Sys2Proof/Syntax.lean ====
section
/-! DEFINITION. The instructions of the fuzzy link engine are the packets the two peers exchange
(30_encoding.md rules R75-R83): four commands host to target (H2T), three responses target to host
(T2H), one constructor for each row of spec/opcode_table.json. Payload byte 0 is the opcode; the
operands are the rest of the payload. -/

namespace Sys2Proof

/-- The payload of a WriteMemoryRegion after its opcode (30_encoding.md rule R78). A packet shorter
than its address field is still a WriteMemoryRegion: it is acknowledged, then InvalidLength
(41_dispatch.md rule R151). -/
inductive WriteOperands where
  /-- L >= 5: the big-endian address of payload bytes 1..4, then n = L - 5 data bytes. -/
  | full (addr : Word) (data : List Byte)
  /-- L < 5: the fewer than four bytes that follow the opcode. -/
  | short (bytes : List Byte)
deriving DecidableEq, Repr

/-- The payload of a ReadMemoryRegion after its opcode (30_encoding.md rule R79). -/
inductive ReadOperands where
  /-- L >= 6: the big-endian address, the count minus one of payload byte 5, the ignored rest. -/
  | full (addr : Word) (countLess1 : Byte) (trailing : List Byte)
  /-- L < 6: the fewer than five bytes that follow the opcode (41_dispatch.md rule R151). -/
  | short (bytes : List Byte)
deriving DecidableEq, Repr

/-- A packet with an opcode of the two opcode maps (30_encoding.md rules R75, R76). -/
inductive Instr where
  /-- CHECK_STATUS, H2T opcode 0x00 (rule R77). -/
  | checkStatus (trailing : List Byte)
  /-- WRITE_MEMORY_REGION, H2T opcode 0x01 (rule R78). -/
  | writeMemoryRegion (ops : WriteOperands)
  /-- READ_MEMORY_REGION, H2T opcode 0x02 (rule R79). -/
  | readMemoryRegion (ops : ReadOperands)
  /-- READ_MEMORY_REGION_DATA, H2T opcode 0x03, a confirmation only (rule R83). -/
  | readMemoryRegionData (trailing : List Byte)
  /-- RSP_UNEXPECTED_COMMAND, T2H opcode 0x00 (rule R81). -/
  | rspUnexpectedCommand
  /-- RSP_OK_WITH_CHECKSUM, T2H opcode 0x01 (rule R80). -/
  | rspOkWithChecksum (checksum : Word)
  /-- RSP_READ_MEMORY_REGION_DATA, T2H opcode 0x02 (rule R82). -/
  | rspReadMemoryRegionData (data : List Byte)
deriving DecidableEq, Repr

end Sys2Proof
end

