-- ==== Sys2Proof/WellFormed.lean ====
section
/-! DEFINITION. Which instructions a packet of 1 to 256 bytes can carry (30_encoding.md rules R72,
R77-R83). -/

namespace Sys2Proof

/-- Rule R78: at most 251 data bytes; a short form has fewer than the four address bytes. -/
def WriteOperands.wellFormed : WriteOperands → Bool
  | .full _ data => data.length ≤ 251
  | .short bytes => bytes.length < 4

/-- Rule R79: at most 250 trailing bytes; a short form has fewer than address and count. -/
def ReadOperands.wellFormed : ReadOperands → Bool
  | .full _ _ trailing => trailing.length ≤ 250
  | .short bytes => bytes.length < 5

/-- The packet fits the frame (rule R72) and has the length its format asks for (rules R77-R83). -/
def Instr.wellFormed : Instr → Bool
  | .checkStatus trailing => trailing.length ≤ 255
  | .writeMemoryRegion ops => ops.wellFormed
  | .readMemoryRegion ops => ops.wellFormed
  | .readMemoryRegionData trailing => trailing.length ≤ 255
  | .rspUnexpectedCommand => true
  | .rspOkWithChecksum _ => true
  | .rspReadMemoryRegionData data => 1 ≤ data.length && data.length ≤ 255

end Sys2Proof
end

