-- ==== Sys2Proof/Decode.lean ====
section
/-! DEFINITION. The decoder, total on any bytes and rejecting by name, and the encoder, both written
from the packet formats of 30_encoding.md rules R75-R84. What an opcode means depends on the
direction the packet travels (rules R75, R76). -/

namespace Sys2Proof

/-- The way a packet travels (00_scope.md glossary). -/
inductive Direction where
  /-- Host to target: a command packet, rule R75. -/
  | h2t
  /-- Target to host: a response packet, rule R76. -/
  | t2h
deriving DecidableEq, Repr

/-- Why bytes are no instruction of the opcode maps. -/
inductive Reject where
  /-- A packet has at least one byte (rule R72). -/
  | emptyPacket
  /-- A packet has at most 256 bytes (rule R72). -/
  | longerThanAPacket
  /-- Command opcodes 0x04..0xFF are reserved (rule R84). -/
  | reservedCommand (opcode : Byte)
  /-- Response opcodes 0x03..0xFF are reserved (rule R85). -/
  | reservedResponse (opcode : Byte)
  /-- A response whose length is not its format's (rules R80, R81, R82). -/
  | responseLength (opcode : Byte)
deriving DecidableEq, Repr

open Machine (beWord leWord beBytes leBytes)

/-- The operands of a WriteMemoryRegion: rule R78. -/
def decodeWrite : List Byte → WriteOperands
  | a3 :: a2 :: a1 :: a0 :: data => .full (beWord a3 a2 a1 a0) data
  | bytes => .short bytes

/-- The operands of a ReadMemoryRegion: rule R79. -/
def decodeRead : List Byte → ReadOperands
  | a3 :: a2 :: a1 :: a0 :: n :: trailing => .full (beWord a3 a2 a1 a0) n trailing
  | bytes => .short bytes

/-- The command opcode map: rules R75, R84. -/
def decodeCommand (opcode : Byte) (rest : List Byte) : Except Reject Instr :=
  if opcode = 0x00#8 then .ok (.checkStatus rest)
  else if opcode = 0x01#8 then .ok (.writeMemoryRegion (decodeWrite rest))
  else if opcode = 0x02#8 then .ok (.readMemoryRegion (decodeRead rest))
  else if opcode = 0x03#8 then .ok (.readMemoryRegionData rest)
  else .error (.reservedCommand opcode)

/-- An OkWithChecksum response has exactly four bytes after its opcode: rule R80. -/
def decodeOk : List Byte → Except Reject Instr
  | [c0, c1, c2, c3] => .ok (.rspOkWithChecksum (leWord c0 c1 c2 c3))
  | _ => .error (.responseLength 0x01#8)

/-- The response opcode map: rules R76, R80-R82, R85. -/
def decodeResponse (opcode : Byte) (rest : List Byte) : Except Reject Instr :=
  if opcode = 0x00#8 then
    if rest = [] then .ok .rspUnexpectedCommand else .error (.responseLength opcode)
  else if opcode = 0x01#8 then decodeOk rest
  else if opcode = 0x02#8 then
    if rest = [] then .error (.responseLength opcode) else .ok (.rspReadMemoryRegionData rest)
  else .error (.reservedResponse opcode)

/-- The instruction a packet's payload holds, by the direction it travels. -/
def decode (d : Direction) : List Byte → Except Reject Instr
  | [] => .error .emptyPacket
  | opcode :: rest =>
    if 255 < rest.length then .error .longerThanAPacket
    else match d with
      | .h2t => decodeCommand opcode rest
      | .t2h => decodeResponse opcode rest

/-- The direction an instruction's packet travels: rules R75, R76. -/
def Instr.direction : Instr → Direction
  | .checkStatus _ => .h2t
  | .writeMemoryRegion _ => .h2t
  | .readMemoryRegion _ => .h2t
  | .readMemoryRegionData _ => .h2t
  | .rspUnexpectedCommand => .t2h
  | .rspOkWithChecksum _ => .t2h
  | .rspReadMemoryRegionData _ => .t2h

/-- Payload byte 0: rules R75, R76. -/
def Instr.opcode : Instr → Byte
  | .checkStatus _ => 0x00#8
  | .writeMemoryRegion _ => 0x01#8
  | .readMemoryRegion _ => 0x02#8
  | .readMemoryRegionData _ => 0x03#8
  | .rspUnexpectedCommand => 0x00#8
  | .rspOkWithChecksum _ => 0x01#8
  | .rspReadMemoryRegionData _ => 0x02#8

/-- Payload bytes 1..4 big-endian, then the data: rule R78. -/
def encodeWrite : WriteOperands → List Byte
  | .full addr data => beBytes addr ++ data
  | .short bytes => bytes

/-- Payload bytes 1..4 big-endian, the count less one, the trailing bytes: rule R79. -/
def encodeRead : ReadOperands → List Byte
  | .full addr countLess1 trailing => beBytes addr ++ countLess1 :: trailing
  | .short bytes => bytes

/-- The payload after byte 0: rules R77-R83. -/
def Instr.operandBytes : Instr → List Byte
  | .checkStatus trailing => trailing
  | .writeMemoryRegion ops => encodeWrite ops
  | .readMemoryRegion ops => encodeRead ops
  | .readMemoryRegionData trailing => trailing
  | .rspUnexpectedCommand => []
  | .rspOkWithChecksum c => leBytes c
  | .rspReadMemoryRegionData data => data

/-- The payload of an instruction's packet, byte 0 first. -/
def encode (i : Instr) : List Byte := i.opcode :: i.operandBytes

/-- How many bytes `packetOfWord` lays out at least: the fixed fields of the longest command,
ReadMemoryRegion (rule R79). -/
def tableWordBytes : Nat := 6

/-- The packet of a row of spec/opcode_table.json: the row's bits as bytes, the first bits in payload
byte 0, and zero bytes up to the fixed fields of the longest command. -/
def packetOfWord (nbits w : Nat) : List Byte :=
  Machine.bytesOfNat (nbits / 8) w ++ List.replicate (tableWordBytes - nbits / 8) 0x00#8

/-- What the decoder reads from a table row's bits. The table gives commands and responses the same
bits (0x00, 0x01, 0x02 each stand for two rows, rules R75 and R76) and no direction: the bits are read
as a command packet, the only packets that start anything (00_scope.md rule R3). DESIGN CHOICE, safe,
notes/assumptions/14.md. -/
def decodeTableWord (nbits w : Nat) : Option Instr :=
  (decode .h2t (packetOfWord nbits w)).toOption

end Sys2Proof
end

