-- ==== Sys2Proof/Config.lean ====
section
/-! DEFINITION. The configuration parameters of an instance (00_scope.md rule R6) and the values the
spec leaves open, as constants without a body. -/

namespace Sys2Proof

/-- The parameters one LE/CD or LE/XO instance is built with (00_scope.md rule R6). They are data of
the machine's state that no operation writes (10_state.md rule R35). `ROLE` is which of the state's two
peers the instance is; `CHANNEL`, one for the link, stands in `LinkParams`; `TARGET_MEMORY` is the
state's memory with what other agents do to it. -/
structure Params where
  /-- `HS_SEND`: the handshake byte SendPacket transmits and waits for. -/
  hsSend : Byte
  /-- `HS_RECV`: the handshake byte ReceivePacket searches for and echoes. -/
  hsRecv : Byte
  /-- `HS_ATTEMPTS`, at least 1: the most search transfers of one packet operation. -/
  hsAttempts : Nat
  /-- `SEND_CONFIRM_COUNT`: SendPacket's confirmation transfers. -/
  sendConfirmCount : Nat
  /-- `RECV_ECHO_COUNT`, at least 1: ReceivePacket's echo transfers. -/
  recvEchoCount : Nat
  /-- `SEED`: what every packet operation starts the checksum from. -/
  seed : Word
  /-- `PKT_MAX`: the largest packet length. The rules write its value, 256. -/
  pktMax : Nat
  /-- `ADDR_BITS`: the width of a target address. The rules write its value, 32. -/
  addrBits : Nat
  /-- `POLL_LIMIT`: the byte-transfer primitive's own poll bound. No rule reads it: the block sees only
  a `Timeout` (10_state.md rule R31). -/
  pollLimit : Nat
  /-- `SETTLE_DELAY`. No rule depends on its value (42_orchestrator.md rule R182). -/
  settleDelay : Nat
deriving DecidableEq, Repr

/-- `CHANNEL`: how the transfers of a link's two peers are paired (60_exceptions.md rule R219). -/
inductive Channel where
  /-- Two outstanding transfers swap their bytes. An `Xfer` without a partner yields a byte of the idle
  line, or, for `none`, `Timeout`: the target's, the host's. -/
  | paired (loneTarget : Option Byte) (loneHost : Option Byte)
  /-- Any channel: each `Xfer` yields what the channel chooses, with no pairing. -/
  | free
deriving DecidableEq, Repr

/-- The lockstep channel, the reference value (60_exceptions.md rule R219): an `Xfer` without a partner
yields `Timeout`. -/
def Channel.lockstep : Channel := .paired none none

/-- The parameters of a link: its two instances' and its channel. -/
structure LinkParams where
  /-- The Responder's. -/
  target : Params
  /-- The Sender's. -/
  host : Params
  channel : Channel
deriving DecidableEq, Repr

/-- What rule R7 asks of the two peers of one link, without which the two-peer rules say nothing
(60_exceptions.md rule R222). -/
def LinkParams.compatible (c : LinkParams) : Bool :=
  c.host.seed = c.target.seed && c.host.pktMax = c.target.pktMax &&
  c.host.addrBits = c.target.addrBits &&
  c.host.hsSend = c.target.hsRecv && c.host.hsRecv = c.target.hsSend &&
  c.host.hsSend ≠ c.host.hsRecv && c.host.hsSend ≠ 0x00#8 && c.host.hsRecv ≠ 0x00#8

namespace Config

/-- The value the source gives `PKT_MAX` (rule R6). -/
def pktMax : Nat := 256

/-- The value the source gives `ADDR_BITS` (rule R6). -/
def addrBits : Nat := 32

/-- H2T handshake byte (30_encoding.md rule R71). -/
def handshakeH2T : Byte := 0x55#8

/-- T2H handshake byte (30_encoding.md rule R71). -/
def handshakeT2H : Byte := 0xAA#8

/-- `SEED`, OPEN: "a fixed constant" whose value the spec does not give (93 item U8). -/
opaque seed : Word

/-- `HS_ATTEMPTS` less one, OPEN: any integer (93 item U9). -/
opaque hsAttemptsLess1 : Nat

/-- `POLL_LIMIT`, OPEN (93 item U10). -/
opaque pollLimit : Nat

/-- `SETTLE_DELAY`, OPEN (93 item U11). -/
opaque settleDelay : Nat

/-- `RX_LEN` less one after the `n`-th failed ReceivePacket: unspecified (40_link_layer.md rule R116,
93 item U5). A free value within the register's range (10_state.md rule R24); no draw is taken by both
peers (notes/assumptions/6.md). -/
opaque freeRxLen : Nat → Byte

/-- `RX_BUF[i]` after the `n`-th failed ReceivePacket: unspecified (40_link_layer.md rule R116). -/
opaque freeRxByte : Nat → Nat → Byte

/-- The Responder's parameters (rule R6): the source's values, the OPEN ones without a value. -/
def targetParams : Params where
  hsSend := handshakeT2H
  hsRecv := handshakeH2T
  hsAttempts := hsAttemptsLess1 + 1
  sendConfirmCount := 1
  recvEchoCount := 1
  seed := seed
  pktMax := pktMax
  addrBits := addrBits
  pollLimit := pollLimit
  settleDelay := settleDelay

/-- The Sender's parameters (rule R6). -/
def hostParams : Params :=
  { targetParams with hsSend := handshakeH2T, hsRecv := handshakeT2H }

/-- The parameters of the link the machine is reset with. -/
def linkParams : LinkParams where
  target := targetParams
  host := hostParams
  channel := .lockstep

end Config

/-- The ranges rule R6 gives the parameters of one instance; `PKT_MAX` and `ADDR_BITS` have the one
value the source fixes. -/
def Params.inRange (p : Params) : Bool :=
  1 ≤ p.hsAttempts && 1 ≤ p.recvEchoCount && p.pktMax = Config.pktMax &&
  p.addrBits = Config.addrBits

/-- Both instances have their parameters in the ranges of rule R6. -/
def LinkParams.inRange (c : LinkParams) : Bool := c.target.inRange && c.host.inRange

end Sys2Proof
end

