-- ==== Sys2Proof/Machine/State.lean ====
section
/-! DEFINITION. The state of the link as plain data: the registers of both peers (10_state.md), target
memory, the configuration parameters, the inputs the world outside will give the machine, and the log
of its port transactions. `State.reset` is the machine just out of reset (10_state.md rule R36). -/

namespace Sys2Proof.Machine

/-- The error kinds (60_exceptions.md rule R201). -/
inductive ErrKind where
  | handshakeTimeout
  | byteTimeout
  | invalidLength
deriving DecidableEq, Repr

/-- `LE_RESULT` (10_state.md rule R28): `OK` or an error kind. -/
inductive Result where
  | ok
  | err (k : ErrKind)
deriving DecidableEq, Repr

/-- `LE_STATE` (10_state.md rule R22). -/
inductive LeState where
  | idle
  | sSearch
  | sConfirm
  | sLen
  | sPay
  | rSearch
  | rEcho
  | rLen
  | rPay
deriving DecidableEq, Repr

/-- `CD_STATE` (41_dispatch.md rule R140). -/
inductive CdState where
  | awaitCmd
  | dispatch
  | csAck
  | wAck
  | wDecode
  | wCopy
  | wConf
  | wReply
  | rAck
  | rDecode
  | rCopy
  | rConf
  | rReply
deriving DecidableEq, Repr

/-- `XO_STATE` (42_orchestrator.md rule R180). -/
inductive XoState where
  | idle
  | send
  | settle
  | recv
deriving DecidableEq, Repr

/-- What a byte-transfer port transaction yields (10_state.md rule R31). -/
inductive Yield where
  | byte (v : Byte)
  | timeout
deriving DecidableEq, Repr

/-- The upstream response of an exchange (10_state.md rule R32, 42_orchestrator.md rule R181). -/
inductive Response where
  | ok (len : Nat) (bytes : List Byte) (txCsum : Word)
  | err (k : ErrKind)
deriving DecidableEq, Repr

/-- One transaction on a port of a peer: everything that leaves or enters the block (10_state.md rules
R31-R33, R38). -/
inductive PortEvent where
  | xfer (o : Byte) (y : Yield)
  | memRead (a : Word) (v : Byte)
  | memWrite (a : Word) (v : Byte)
  | respond (r : Response)
deriving DecidableEq, Repr

/-- A peer's ports. Both fields are the model's own. -/
structure Port where
  /-- What the channel will yield at this peer's coming `Xfer`s (the oracle of 10_state.md rule R31).
  When it is used up every `Xfer` yields `Timeout`. DESIGN CHOICE, notes/assumptions/4.md. -/
  inbox : List Yield
  /-- The peer's port transactions so far, oldest first. DESIGN CHOICE, notes/assumptions/5.md. -/
  trace : List PortEvent
deriving DecidableEq, Repr

/-- The registers of a link engine (10_state.md rules R22-R28) and its port. -/
structure Engine where
  /-- `LE_STATE` -/
  state : LeState
  /-- `ACC` -/
  acc : Word
  /-- `RX_BUF` -/
  rxBuf : Vector Byte 256
  /-- `RX_LEN` -/
  rxLen : Nat
  /-- `TX_BUF` -/
  txBuf : Vector Byte 257
  /-- `TX_LEN` -/
  txLen : Nat
  /-- `HS_CNT` -/
  hsCnt : Nat
  /-- `ECHO_CNT` -/
  echoCnt : Nat
  /-- `IDX` -/
  idx : Nat
  /-- `LE_RESULT` -/
  result : Result
  port : Port
  /-- The number of this engine's next free value, even for the Responder and odd for the Sender: the
  model's own, notes/assumptions/6.md. -/
  draws : Nat
deriving DecidableEq, Repr

/-- The Responder peer: its LE and the CD's registers (10_state.md rule R29). -/
structure Responder where
  eng : Engine
  /-- `CD_STATE` -/
  cd : CdState
  /-- `CMD` -/
  cmd : Byte
  /-- `CMD_LEN` -/
  cmdLen : Nat
  /-- `ADDR` -/
  addr : Word
  /-- `CNT` -/
  cnt : Nat
  /-- `J` -/
  j : Nat
deriving DecidableEq, Repr

/-- The Sender peer: its LE and the XO's registers (10_state.md rule R30). -/
structure Sender where
  eng : Engine
  /-- `XO_STATE` -/
  xo : XoState
  /-- `TX_CSUM` -/
  txCsum : Word
  /-- `XO_ERR` -/
  xoErr : ErrKind
deriving DecidableEq, Repr

/-- Target memory (20_memory.md rule R50): the cells that differ from `Memory.unlisted`, addresses
strictly rising. -/
abbrev Memory := List Host.Cell

/-- The two peers (00_scope.md rule R3). -/
inductive Role where
  | responder
  | sender
deriving DecidableEq, Repr

/-- What one step of the machine is: notes/assumptions/10.md. -/
inductive Schedule where
  /-- One packet operation of the peer whose turn it is, with what the peer does with the packet: the
  procedures of 41_dispatch.md and 42_orchestrator.md. -/
  | byPacket
  /-- One port transaction or FSM transition of the peer whose turn it is: the tables of
  40_link_layer.md rule R112 and 41_dispatch.md rule R160. -/
  | byPort
  /-- The same, the two ports joined by the channel of `LinkParams.channel` (60_exceptions.md rule
  R219). -/
  | linked
deriving DecidableEq, Repr

/-- What the channel does to one pair of transfers (60_exceptions.md rule R219(a)). -/
inductive Noise where
  | clean
  | drop
  /-- Noise in either direction; `none` leaves that direction clean. -/
  | corrupt (toTarget : Option Byte) (toHost : Option Byte)
deriving DecidableEq, Repr

/-- The whole machine: both peers, what surrounds them, and the model's own inputs and bookkeeping. -/
structure State where
  /-- The configuration parameters of both instances, which no step writes (10_state.md rule R35). -/
  cfg : LinkParams
  target : Responder
  host : Sender
  /-- Target memory, outside the block (20_memory.md rule R58). -/
  mem : Memory
  /-- The stores other agents of the target make just before each coming access of the CD
  (20_memory.md rule R61): an input, notes/assumptions/7.md. -/
  otherStores : List (List (Word × Byte))
  /-- The upstream requests to come (10_state.md rule R32): an input, notes/assumptions/8.md. -/
  requests : List (List Byte)
  /-- The channel's draws, one a pair of transfers: an input, notes/assumptions/9.md. -/
  noise : List Noise
  /-- Which peer moves alone at each coming transition of the link, if not both have a transfer
  outstanding: the relative speed of the peers, an input, notes/assumptions/9.md. -/
  pace : List (Option Role)
  /-- The Responder's reset input at its coming steps (70_reset_and_hazards.md rule R230): an input,
  notes/assumptions/11.md. -/
  targetReset : List Bool
  /-- The Sender's reset input at its coming steps. -/
  hostReset : List Bool
  /-- What a step is: the model's own. -/
  schedule : Schedule
  /-- Which peer the next step belongs to: the model's own. -/
  turn : Role
deriving DecidableEq, Repr

/-- Why the machine stops with a fault. -/
inductive Fault where
  /-- Raised by every meaning on an instruction that no packet of 1 to 256 bytes carries
  (30_encoding.md rule R72, `Instr.wellFormed`): no decoded packet is one. Safe. -/
  | noSuchPacket
deriving DecidableEq, Repr

/-- Why an instruction or a step has no meaning. -/
inductive Refusal where
  /-- Raised by `exec` for an instruction without a meaning. None is left. Safe. -/
  | notModelled (mnemonic : String)
  /-- Raised by every meaning when the receiving peer's LE is in the middle of an operation
  (40_link_layer.md rule R119: "A model may refuse such a start"). Safe. -/
  | engineBusy
  /-- Raised by a command's meaning when the CD is in none of `DISPATCH`, `W_CONF`, `R_CONF`, so that
  no packet has been delivered to it (40_link_layer.md rule R119). Safe. -/
  | commandNotAwaited
  /-- Raised by a response's meaning when the XO is not in `RECV`, so that no reply has been delivered
  to it (40_link_layer.md rule R119). Safe. -/
  | replyNotAwaited
  /-- Raised by a step of two linked peers whose parameters break 00_scope.md rule R7
  (60_exceptions.md rule R222, 93 item U20: refuse). Safe. -/
  | incompatiblePeers
deriving DecidableEq, Repr

/-- An LE just out of reset: `LE_STATE` is `IDLE`; the spec gives every other register no value
(10_state.md rule R36), so the values are the model's. DESIGN CHOICE, unsafe,
notes/assumptions/1.md. -/
def Engine.reset : Engine where
  state := .idle
  acc := 0#32
  rxBuf := Vector.replicate 256 0x00#8
  rxLen := 1
  txBuf := Vector.replicate 257 0x00#8
  txLen := 0
  hsCnt := 0
  echoCnt := 0
  idx := 0
  result := .ok
  port := { inbox := [], trace := [] }
  draws := 0

/-- `CD_STATE` is `AWAIT_CMD` (10_state.md rule R36). The rest: DESIGN CHOICE, unsafe,
notes/assumptions/1.md. -/
def Responder.reset : Responder where
  eng := Engine.reset
  cd := .awaitCmd
  cmd := 0x00#8
  cmdLen := 1
  addr := 0#32
  cnt := 0
  j := 0

/-- `XO_STATE` is `IDLE` (10_state.md rule R36). The rest: DESIGN CHOICE, unsafe,
notes/assumptions/1.md. -/
def Sender.reset : Sender where
  eng := { Engine.reset with draws := 1 }
  xo := .idle
  txCsum := 0#32
  xoErr := .handshakeTimeout

/-- Both peers just out of reset, with the parameters `cfg`, memory with nothing listed and no input
waiting. -/
def State.resetWith (cfg : LinkParams) : State where
  cfg := cfg
  target := Responder.reset
  host := Sender.reset
  mem := []
  otherStores := []
  requests := []
  noise := []
  pace := []
  targetReset := []
  hostReset := []
  schedule := .byPacket
  turn := .responder

/-- The machine right after reset (10_state.md rule R36, 70_reset_and_hazards.md rule R230). -/
def State.reset : State := State.resetWith Config.linkParams

end Sys2Proof.Machine
end

