-- ==== Sys2Proof/Machine/Flags.lean ====
section
/-! DEFINITION. The block has no condition flags. Its computed values are the rolling checksum
(40_link_layer.md rules R100, R101) and its status value `LE_RESULT` with the numeric codes of
60_exceptions.md rule R201. -/

namespace Sys2Proof.Machine

/-- `rotl32(x, n)` for n < 32 (00_scope.md rule R8). -/
def rotl32 (x : Word) (n : Nat) : Word := (x <<< n) ||| (x >>> (32 - n))

/-- CsumStep: the checksum update (40_link_layer.md rule R100). -/
def csumStep (acc : Word) (b : Byte) : Word := rotl32 acc 3 ^^^ b.setWidth 32

/-- Csum: the left fold of CsumStep over a byte sequence (40_link_layer.md rule R101). -/
def csum : Word → List Byte → Word
  | s, [] => s
  | s, b :: bs => csum (csumStep s b) bs

/-- The code of an error kind (60_exceptions.md rule R201). -/
def ErrKind.code : ErrKind → Nat
  | .handshakeTimeout => 1
  | .byteTimeout => 2
  | .invalidLength => 3

/-- The code of an `LE_RESULT` value (60_exceptions.md rule R201). -/
def Result.code : Result → Nat
  | .ok => 0
  | .err k => k.code

end Sys2Proof.Machine
end

