-- ==== Sys2Proof/Machine/Ops.lean ====
section
/-! DEFINITION. The named operations the meanings share: target memory and its port (20_memory.md),
the packet buffers, the byte-transfer port (10_state.md rule R31), the end and the abort of a link
operation (60_exceptions.md rule R200), and the reset of a peer (70_reset_and_hazards.md rule R230). -/

namespace Sys2Proof.Machine

/-! ### Target memory -/

/-- What a cell that memory does not list reads as. The spec leaves the initial contents to the
platform (20_memory.md rule R58). DESIGN CHOICE, unsafe, notes/assumptions/2.md. -/
def Memory.unlisted : Byte := 0x00#8

/-- The byte at an address. -/
def Memory.read : Memory → Nat → Byte
  | [], _ => Memory.unlisted
  | (a, v) :: m, k => if a = k then v else Memory.read m k

/-- Memory with one byte stored, in canonical form: addresses strictly rising, no entry that equals
what an unlisted cell reads as. -/
def Memory.write : Memory → Nat → Byte → Memory
  | [], k, v => if v = Memory.unlisted then [] else [(k, v)]
  | (a, w) :: m, k, v =>
    if a < k then (a, w) :: Memory.write m k v
    else if a = k then (if v = Memory.unlisted then m else (k, v) :: m)
    else (if v = Memory.unlisted then (a, w) :: m else (k, v) :: (a, w) :: m)

/-- Canonical from address `lo` on. -/
def Memory.wfFrom : Nat → Memory → Bool
  | _, [] => true
  | lo, (a, v) :: m =>
    lo ≤ a && a < 2 ^ Config.addrBits && v ≠ Memory.unlisted && Memory.wfFrom (a + 1) m

/-- The canonical form of memory, over the 2^32 addresses of 20_memory.md rule R50. -/
def Memory.wf (m : Memory) : Bool := Memory.wfFrom 0 m

/-- Stores in order, as another agent of the target makes them (20_memory.md rule R61). -/
def Memory.storeAll : Memory → List (Word × Byte) → Memory
  | m, [] => m
  | m, (a, v) :: rest => Memory.storeAll (m.write a.toNat v) rest

/-! ### Packet buffers -/

/-- One cell written; an index past the last cell writes nothing. -/
def bufPut {n : Nat} (buf : Vector Byte n) (i : Nat) (b : Byte) : Vector Byte n :=
  ⟨⟨buf.toList.set i b⟩, by simp⟩

/-- Cells `i`, `i + 1`, ... written in order. -/
def bufPutAll {n : Nat} : Vector Byte n → Nat → List Byte → Vector Byte n
  | buf, _, [] => buf
  | buf, i, b :: bs => bufPutAll (bufPut buf i b) (i + 1) bs

/-- One cell. -/
def bufAt {n : Nat} (buf : Vector Byte n) (i : Nat) : Byte := buf.toList.getD i 0x00#8

/-- The byte sequence `B[0..len)` (00_scope.md rule R8). -/
def bufTake {n : Nat} (buf : Vector Byte n) (len : Nat) : List Byte := buf.toList.take len

/-- The delivered packet, `RX_BUF[0..RX_LEN)` (10_state.md rule R24). -/
def Engine.rxPacket (e : Engine) : List Byte := bufTake e.rxBuf e.rxLen

/-- The outgoing packet, `TX_BUF[0..TX_LEN)` (10_state.md rule R25). -/
def Engine.txPacket (e : Engine) : List Byte := bufTake e.txBuf e.txLen

/-- The outgoing packet written: `TX_BUF[0..L)` and `TX_LEN` (10_state.md rule R25). -/
def Engine.stage (bytes : List Byte) (e : Engine) : Engine :=
  { e with txBuf := bufPutAll e.txBuf 0 bytes, txLen := bytes.length }

/-! ### The byte-transfer port -/

/-- One port transaction added to the peer's trace. -/
def Engine.log (ev : PortEvent) (e : Engine) : Engine :=
  { e with port := { e.port with trace := e.port.trace ++ [ev] } }

/-- What the scripted channel yields next (notes/assumptions/4.md). -/
def Engine.answer (e : Engine) : Yield := e.port.inbox.headD .timeout

/-- The next yield taken from the script. -/
def Engine.consume (e : Engine) : Engine :=
  { e with port := { e.port with inbox := e.port.inbox.tail } }

/-- A link operation so far: `OK`, or the error kind it has raised, and the engine. -/
abbrev Attempt := Result × Engine

/-- `r <- Xfer(o)` (10_state.md rule R31) in a link operation: a `Timeout` raises BYTE_TIMEOUT
(60_exceptions.md rule R203), a byte goes on. -/
def Engine.xfer (o : Byte) (e : Engine) (go : Byte → Engine → Attempt) : Attempt :=
  match e.answer with
  | .timeout => (.err .byteTimeout, e.consume.log (.xfer o .timeout))
  | .byte v => go v (e.consume.log (.xfer o (.byte v)))

/-- The next phase of a link operation, reached only if no error was raised. -/
def Attempt.andThen (a : Attempt) (go : Engine → Attempt) : Attempt :=
  match a with
  | (.ok, e) => go e
  | (.err k, e) => (.err k, e)

/-! ### End and abort of a link operation -/

/-- The LE is in a phase of ReceivePacket (10_state.md rule R22). -/
def LeState.receiving : LeState → Bool
  | .rSearch | .rEcho | .rLen | .rPay => true
  | _ => false

/-- The LE is in a phase of SendPacket (10_state.md rule R22). -/
def LeState.sending : LeState → Bool
  | .sSearch | .sConfirm | .sLen | .sPay => true
  | _ => false

/-- `RX_LEN` and `RX_BUF` after a failed ReceivePacket: unspecified, so free values
(40_link_layer.md rule R116). The Responder takes the even draws and the Sender the odd ones, so that
the two peers' values are unrelated. DESIGN CHOICE, notes/assumptions/6.md. -/
def Engine.loseRx (e : Engine) : Engine :=
  { e with
    rxLen := (Config.freeRxLen e.draws).toNat + 1
    rxBuf := ⟨⟨(List.range 256).map (Config.freeRxByte e.draws)⟩, by simp⟩
    draws := e.draws + 2 }

/-- Abort of a link operation (60_exceptions.md rule R200): `LE_RESULT <- kind`, `LE_STATE <- IDLE`,
nothing saved, no vector. After a ReceivePacket the receive registers are unspecified (40_link_layer.md
rule R116). There is no return from it: the layer-(c) FSM takes its error transition (rule R211). -/
def Engine.abort (k : ErrKind) (e : Engine) : Engine :=
  let e' := if e.state.receiving then e.loseRx else e
  { e' with result := .err k, state := .idle }

/-- The successful end: `LE_RESULT <- OK; LE_STATE <- IDLE` (40_link_layer.md rules R103, R104). -/
def Engine.finish (e : Engine) : Engine := { e with result := .ok, state := .idle }

/-- The end of a link operation, with or without an error. -/
def Attempt.conclude : Attempt → Engine
  | (.ok, e) => e.finish
  | (.err k, e) => e.abort k

/-! ### The peers -/

/-- The Responder's LE updated. -/
def Responder.onEng (f : Engine → Engine) (r : Responder) : Responder := { r with eng := f r.eng }

/-- `CD_STATE <- X` (41_dispatch.md rule R140). -/
def Responder.goto (cd : CdState) (r : Responder) : Responder := { r with cd := cd }

/-- The Sender's LE updated. -/
def Sender.onEng (f : Engine → Engine) (h : Sender) : Sender := { h with eng := f h.eng }

/-- `XO_STATE <- X` (42_orchestrator.md rule R180). -/
def Sender.goto (xo : XoState) (h : Sender) : Sender := { h with xo := xo }

/-- The Responder updated. -/
def State.onTarget (f : Responder → Responder) (s : State) : State := { s with target := f s.target }

/-- The Sender updated. -/
def State.onHost (f : Sender → Sender) (s : State) : State := { s with host := f s.host }

/-- MakeAck: the OkWithChecksum payload from the current `ACC` (41_dispatch.md rule R143). -/
def Responder.makeAck (r : Responder) : Responder :=
  r.onEng fun e => e.stage (0x01#8 :: leBytes e.acc)

/-- MakeUnexpected: the UnexpectedCommand payload (41_dispatch.md rule R149). -/
def Responder.makeUnexpected (r : Responder) : Responder :=
  r.onEng fun e => e.stage [0x00#8]

/-- `CMD <- RX_BUF[0]`, `CMD_LEN <- RX_LEN`, `CD_STATE <- DISPATCH` (41_dispatch.md rule R141). -/
def Responder.latch (r : Responder) : Responder :=
  { r with cmd := bufAt r.eng.rxBuf 0, cmdLen := r.eng.rxLen, cd := .dispatch }

/-! ### The target memory port -/

/-- Memory as the CD's next access finds it: after the stores other agents make just before it
(20_memory.md rule R61, notes/assumptions/7.md). -/
def State.memNow (s : State) : Memory := s.mem.storeAll (s.otherStores.headD [])

/-- `MemWrite(a, 1, v)` (20_memory.md rule R51). -/
def State.memWrite (a : Word) (v : Byte) (s : State) : State :=
  { s with
    mem := s.memNow.write a.toNat v
    otherStores := s.otherStores.tail
    target := s.target.onEng (Engine.log (.memWrite a v)) }

/-- The byte `MemRead(a, 1)` returns (20_memory.md rule R51). -/
def State.memByte (a : Word) (s : State) : Byte := s.memNow.read a.toNat

/-- `MemRead(a, 1)`: the machine after it. -/
def State.memRead (a : Word) (s : State) : State :=
  { s with
    mem := s.memNow
    otherStores := s.otherStores.tail
    target := s.target.onEng (Engine.log (.memRead a (s.memByte a))) }

/-- One turn of `W_COPY`'s loop: `MemWrite((ADDR + J) mod 2^32, 1, v)`, `J+` (41_dispatch.md rules
R145, R160). -/
def State.copyOutByte (v : Byte) (s : State) : State :=
  let a := addrOf s.cfg.target.addrBits s.target.addr s.target.j
  (s.memWrite a v).onTarget fun r => { r with j := r.j + 1 }

/-- One turn of `R_COPY`'s loop: `TX_BUF[1 + J] <- MemRead((ADDR + J) mod 2^32, 1)`, `J+`
(41_dispatch.md rules R146, R160). -/
def State.copyInByte (s : State) : State :=
  let a := addrOf s.cfg.target.addrBits s.target.addr s.target.j
  (s.memRead a).onTarget fun r =>
    { r with
      eng := { r.eng with txBuf := bufPut r.eng.txBuf (1 + r.j) (s.memByte a) }
      j := r.j + 1 }

/-! ### The upstream port -/

/-- `XO_STATE <- IDLE; respond Ok(RX_LEN, RX_BUF[0..RX_LEN), TX_CSUM)` for a reply of these bytes
(42_orchestrator.md rule R181). -/
def Sender.respondOk (bytes : List Byte) (h : Sender) : Sender :=
  { h with
    xo := .idle
    eng := h.eng.log (.respond (.ok bytes.length bytes h.txCsum)) }

/-- `XO_ERR <- kind; XO_STATE <- IDLE; respond Err(XO_ERR)` (42_orchestrator.md rules R181, R183). -/
def Sender.respondErr (k : ErrKind) (h : Sender) : Sender :=
  { h with
    xo := .idle
    xoErr := k
    eng := h.eng.log (.respond (.err k)) }

/-! ### Reset of a peer -/

/-- An LE reset at any time (70_reset_and_hazards.md rules R230, R231). What is outside the block
stays: the channel's script, the log, the count of free values. -/
def Engine.toReset (e : Engine) : Engine :=
  { Engine.reset with port := e.port, draws := e.draws }

/-- The Responder's reset input: LE and CD (70_reset_and_hazards.md rules R230-R232). Target memory
keeps its contents. -/
def State.resetTarget (s : State) : State :=
  s.onTarget fun r => { Responder.reset with eng := r.eng.toReset }

/-- The Sender's reset input: LE and XO; a request in progress gets no response
(70_reset_and_hazards.md rules R230, R231). -/
def State.resetHost (s : State) : State :=
  s.onHost fun h => { Sender.reset with eng := h.eng.toReset }

end Sys2Proof.Machine
end

