-- ==== Sys2Proof/Machine/Link.lean ====
section
/-! DEFINITION. The packet link layer (40_link_layer.md): SendPacket and ReceivePacket as the
procedures of rules R103 and R104, and the same two operations as the step table of rule R112, one row
a transfer. -/

namespace Sys2Proof.Machine

/-! ### The procedures -/

/-- The bounded handshake search (40_link_layer.md rule R105): `n` attempts are left. -/
def search (tx awaited : Byte) : Nat → Engine → Attempt
  | 0, e => (.err .handshakeTimeout, e)
  | n + 1, e =>
    e.xfer tx fun v e =>
      if v = awaited then (.ok, { e with hsCnt := e.hsCnt + 1 })
      else search tx awaited n { e with hsCnt := e.hsCnt + 1 }

/-- `n` more confirmation or echo transfers of the byte `hs`, the returned bytes ignored
(40_link_layer.md rules R103 step 4, R104 step 3, R106). -/
def echo (hs : Byte) : Nat → Engine → Attempt
  | 0, e => (.ok, e)
  | n + 1, e => e.xfer hs fun _ e => echo hs n { e with echoCnt := e.echoCnt + 1 }

/-- SendPacket's payload transfers: each byte is folded after its transfer has returned
(40_link_layer.md rules R103 step 6, R106, R113). -/
def sendPayload : List Byte → Engine → Attempt
  | [], e => (.ok, e)
  | b :: bs, e =>
    e.xfer b fun _ e => sendPayload bs { e with acc := csumStep e.acc b, idx := e.idx + 1 }

/-- ReceivePacket's payload transfers, `n` of them left: the fill byte is the index
(40_link_layer.md rules R104 step 5, R108, R113). -/
def receivePayload : Nat → Engine → Attempt
  | 0, e => (.ok, e)
  | n + 1, e =>
    e.xfer (BitVec.ofNat 8 e.idx) fun v e =>
      receivePayload n
        { e with rxBuf := bufPut e.rxBuf e.idx v, acc := csumStep e.acc v, idx := e.idx + 1 }

/-- `TX_LEN` is outside [1, `PKT_MAX`], which is [1, 256]: what SendPacket rejects (40_link_layer.md
rule R103 step 1, 00_scope.md rule R6). -/
def Engine.badLength (p : Params) (e : Engine) : Bool := e.txLen < 1 || p.pktMax < e.txLen

/-- SendPacket: send one packet (40_link_layer.md rule R103). -/
def sendPacket (p : Params) (e : Engine) : Engine :=
  if e.badLength p then e.abort .invalidLength
  else Attempt.conclude <|
    (search p.hsSend p.hsSend p.hsAttempts
        { e with acc := p.seed, state := .sSearch, hsCnt := 0 }).andThen fun e =>
    (echo p.hsSend p.sendConfirmCount { e with state := .sConfirm, echoCnt := 0 }).andThen fun e =>
    ({ e with state := .sLen } : Engine).xfer (lengthByte e.txLen) fun _ e =>
    sendPayload e.txPacket { e with state := .sPay, idx := 0 }

/-- ReceivePacket: receive one packet (40_link_layer.md rule R104). -/
def receivePacket (p : Params) (e : Engine) : Engine :=
  Attempt.conclude <|
    (search 0x00#8 p.hsRecv p.hsAttempts
        { e with acc := p.seed, state := .rSearch, hsCnt := 0 }).andThen fun e =>
    (echo p.hsRecv p.recvEchoCount { e with state := .rEcho, echoCnt := 0 }).andThen fun e =>
    ({ e with state := .rLen } : Engine).xfer 0x00#8 fun v e =>
    receivePayload (lengthOf v) { e with rxLen := lengthOf v, state := .rPay, idx := 0 }

/-! ### The step table -/

/-- Start of SendPacket, from `IDLE` (40_link_layer.md rule R112). -/
def startSend (p : Params) (e : Engine) : Engine :=
  if e.badLength p then e.abort .invalidLength
  else { e with acc := p.seed, hsCnt := 0, state := .sSearch }

/-- Start of ReceivePacket, from `IDLE` (40_link_layer.md rule R112). -/
def startReceive (p : Params) (e : Engine) : Engine :=
  { e with acc := p.seed, hsCnt := 0, state := .rSearch }

/-- The byte the outstanding `Xfer` transmits: the second column of the table (40_link_layer.md rule
R112). In `IDLE` no `Xfer` is outstanding. -/
def Engine.txByte (p : Params) (e : Engine) : Byte :=
  match e.state with
  | .idle => 0x00#8
  | .sSearch => p.hsSend
  | .sConfirm => p.hsSend
  | .sLen => lengthByte e.txLen
  | .sPay => bufAt e.txBuf e.idx
  | .rSearch => 0x00#8
  | .rEcho => p.hsRecv
  | .rLen => 0x00#8
  | .rPay => BitVec.ofNat 8 e.idx

/-- A search transfer returned a byte that is not the awaited one (40_link_layer.md rule R112). -/
def Engine.searchMiss (p : Params) (e : Engine) : Engine :=
  if e.hsCnt + 1 = p.hsAttempts then
    ({ e with hsCnt := e.hsCnt + 1 } : Engine).abort .handshakeTimeout
  else { e with hsCnt := e.hsCnt + 1 }

/-- SendPacket's search matched (40_link_layer.md rule R112). -/
def Engine.sendMatched (p : Params) (e : Engine) : Engine :=
  { e with
    hsCnt := e.hsCnt + 1
    echoCnt := 0
    state := if p.sendConfirmCount = 0 then .sLen else .sConfirm }

/-- One more confirmation transfer (40_link_layer.md rule R112). -/
def Engine.confirmed (p : Params) (e : Engine) : Engine :=
  { e with
    echoCnt := e.echoCnt + 1
    state := if e.echoCnt + 1 = p.sendConfirmCount then .sLen else .sConfirm }

/-- One more payload byte sent (40_link_layer.md rule R112). -/
def Engine.paid (e : Engine) : Engine :=
  let e' := { e with acc := csumStep e.acc (bufAt e.txBuf e.idx), idx := e.idx + 1 }
  if e.idx + 1 = e.txLen then e'.finish else e'

/-- One more echo transfer (40_link_layer.md rule R112). -/
def Engine.echoed (p : Params) (e : Engine) : Engine :=
  { e with
    echoCnt := e.echoCnt + 1
    state := if e.echoCnt + 1 = p.recvEchoCount then .rLen else .rEcho }

/-- One more payload byte received (40_link_layer.md rule R112). -/
def Engine.took (v : Byte) (e : Engine) : Engine :=
  let e' := { e with
    rxBuf := bufPut e.rxBuf e.idx v
    acc := csumStep e.acc v
    idx := e.idx + 1 }
  if e.idx + 1 = e.rxLen then e'.finish else e'

/-- The outstanding `Xfer` yields `Byte(v)`: the table's row (40_link_layer.md rule R112). -/
def Engine.onByte (p : Params) (v : Byte) (e : Engine) : Engine :=
  match e.state with
  | .idle => e
  | .sSearch => if v = p.hsSend then e.sendMatched p else e.searchMiss p
  | .sConfirm => e.confirmed p
  | .sLen => { e with state := .sPay, idx := 0 }
  | .sPay => e.paid
  | .rSearch =>
    if v = p.hsRecv then { e with hsCnt := e.hsCnt + 1, echoCnt := 0, state := .rEcho }
    else e.searchMiss p
  | .rEcho => e.echoed p
  | .rLen => { e with rxLen := lengthOf v, state := .rPay, idx := 0 }
  | .rPay => e.took v

/-- The outstanding `Xfer` yields (40_link_layer.md rule R112, its last row for `Timeout`). -/
def Engine.onYield (p : Params) (y : Yield) (e : Engine) : Engine :=
  match y with
  | .timeout => (e.log (.xfer (e.txByte p) .timeout)).abort .byteTimeout
  | .byte v => (e.log (.xfer (e.txByte p) (.byte v))).onByte p v

/-- One transfer against the scripted channel: one row of the table; nothing in `IDLE`. -/
def Engine.tick (p : Params) (e : Engine) : Engine :=
  if e.state = .idle then e else e.consume.onYield p e.answer

/-- `n` transfers against the scripted channel. -/
def Engine.ticks (p : Params) : Nat → Engine → Engine
  | 0, e => e
  | n + 1, e => Engine.ticks p n (e.tick p)

end Sys2Proof.Machine
end

