-- ==== Sys2Proof/Machine/Commands.lean ====
section
/-! DEFINITION. The four commands, executed by the Responder that received the packet (41_dispatch.md).
In `DISPATCH` a command runs its transaction up to the point where the CD needs another packet; in
`W_CONF` and `R_CONF` any packet is the confirmation of the transaction in progress (rule R148). -/

namespace Sys2Proof.Machine

/-- The Responder's SendPacket (40_link_layer.md rule R103). -/
def State.sendFromTarget (s : State) : State :=
  s.onTarget (·.onEng (sendPacket s.cfg.target))

/-- MakeAck, then the ack's SendPacket in the state `cd` (41_dispatch.md rules R143, R155). -/
def State.sendAck (cd : CdState) (s : State) : State :=
  (s.onTarget fun r => r.makeAck.goto cd).sendFromTarget

/-- `CD_STATE <- X`. -/
def State.gotoCd (cd : CdState) (s : State) : State := s.onTarget (·.goto cd)

/-- The answer to a phase-2 packet: the reply is put in place, sent in the state `cd`, and the result
of the send is not examined (41_dispatch.md rules R148, R153). -/
def State.sendReply (make : Responder → Responder) (cd : CdState) (s : State) : State :=
  ((s.onTarget fun r => (make r).goto cd).sendFromTarget).gotoCd .awaitCmd

/-- A packet with this opcode as a WriteMemoryRegion's confirmation: 0x00 matches
(41_dispatch.md rules R145, R148, R157). -/
def State.confirmWrite (opcode : Byte) (s : State) : State :=
  s.sendReply (fun r => if opcode = 0x00#8 then r.makeAck else r.makeUnexpected) .wReply

/-- A packet with this opcode as a ReadMemoryRegion's confirmation: 0x03 matches and the data reply
goes out as phase 1 built it (41_dispatch.md rules R146, R148, R154). -/
def State.confirmRead (opcode : Byte) (s : State) : State :=
  s.sendReply (fun r => if opcode = 0x03#8 then r else r.makeUnexpected) .rReply

/-- A delivered command packet: it runs as a command in `DISPATCH` and as a confirmation in phase 2
(30_encoding.md rule R88). It needs an idle LE (40_link_layer.md rule R119). -/
def State.onCommand (i : Instr) (run : State → State) (s : State) :
    Host.Outcome State Fault Refusal :=
  if i.wellFormed = false then .fault .noSuchPacket
  else if s.target.eng.state ≠ .idle then .refused .engineBusy
  else match s.target.cd with
    | .dispatch => .next (run s)
    | .wConf => .next (s.confirmWrite i.opcode)
    | .rConf => .next (s.confirmRead i.opcode)
    | _ => .refused .commandNotAwaited

/-! ### The transactions -/

/-- CheckStatus (41_dispatch.md rule R144): the ack, whose result is not examined (rule R153). -/
def State.runCheckStatus (s : State) : State := (s.sendAck .csAck).gotoCd .awaitCmd

/-- `W_COPY`: the data bytes in ascending address order (41_dispatch.md rules R145, R155). -/
def State.copyOut : List Byte → State → State
  | [], s => s
  | b :: bs, s => State.copyOut bs (s.copyOutByte b)

/-- WriteMemoryRegion from `W_DECODE` on, the ack sent (41_dispatch.md rules R145, R151). -/
def State.writePhase1 (ops : WriteOperands) (s : State) : State :=
  match ops with
  | .short _ => s.gotoCd .awaitCmd
  | .full addr data =>
    ((s.onTarget fun r =>
        { r with addr := addr, cnt := data.length, j := 0, cd := .wCopy }).copyOut data).gotoCd .wConf

/-- WriteMemoryRegion's phase 1 (41_dispatch.md rules R145, R152). -/
def State.runWrite (ops : WriteOperands) (s : State) : State :=
  let s' := s.sendAck .wAck
  if s'.target.eng.result = .ok then (s'.gotoCd .wDecode).writePhase1 ops
  else s'.gotoCd .awaitCmd

/-- `R_COPY`: `n` more bytes in ascending address order (41_dispatch.md rules R146, R155). -/
def State.copyIn : Nat → State → State
  | 0, s => s
  | n + 1, s => State.copyIn n s.copyInByte

/-- `TX_LEN <- CNT + 1` (41_dispatch.md rule R146). -/
def Responder.closeReply (r : Responder) : Responder :=
  r.onEng fun e => { e with txLen := r.cnt + 1 }

/-- `ADDR`, `CNT` latched, `TX_BUF[0] <- 0x02`, `J <- 0`, `R_COPY` (41_dispatch.md rules R146, R160). -/
def Responder.openReply (addr : Word) (cnt : Nat) (r : Responder) : Responder :=
  { r with
    addr := addr
    cnt := cnt
    j := 0
    cd := .rCopy
    eng := { r.eng with txBuf := bufPut r.eng.txBuf 0 0x02#8 } }

/-- ReadMemoryRegion from `R_DECODE` on, the ack sent (41_dispatch.md rules R146, R151). -/
def State.readPhase1 (ops : ReadOperands) (s : State) : State :=
  match ops with
  | .short _ => s.gotoCd .awaitCmd
  | .full addr countLess1 _ =>
    (((s.onTarget (Responder.openReply addr (countOf countLess1))).copyIn
        (countOf countLess1)).onTarget Responder.closeReply).gotoCd .rConf

/-- ReadMemoryRegion's phase 1 (41_dispatch.md rules R146, R152). -/
def State.runRead (ops : ReadOperands) (s : State) : State :=
  let s' := s.sendAck .rAck
  if s'.target.eng.result = .ok then (s'.gotoCd .rDecode).readPhase1 ops
  else s'.gotoCd .awaitCmd

/-- An unknown opcode in `AWAIT_CMD`: no response, no memory access (41_dispatch.md rule R150,
notes/assumptions/13.md). -/
def State.runUnknown (s : State) : State := s.gotoCd .awaitCmd

/-! ### The meanings -/

/-- CHECK_STATUS (41_dispatch.md rules R144, R148). -/
def execCheckStatus (trailing : List Byte) (s : State) : Host.Outcome State Fault Refusal :=
  s.onCommand (.checkStatus trailing) State.runCheckStatus

/-- WRITE_MEMORY_REGION (41_dispatch.md rules R145, R148, R151). -/
def execWriteMemoryRegion (ops : WriteOperands) (s : State) : Host.Outcome State Fault Refusal :=
  s.onCommand (.writeMemoryRegion ops) (State.runWrite ops)

/-- READ_MEMORY_REGION (41_dispatch.md rules R146, R148, R151). -/
def execReadMemoryRegion (ops : ReadOperands) (s : State) : Host.Outcome State Fault Refusal :=
  s.onCommand (.readMemoryRegion ops) (State.runRead ops)

/-- READ_MEMORY_REGION_DATA: the matching confirmation in `R_CONF`, an unknown opcode in `DISPATCH`
(41_dispatch.md rules R148, R150). -/
def execReadMemoryRegionData (trailing : List Byte) (s : State) :
    Host.Outcome State Fault Refusal :=
  s.onCommand (.readMemoryRegionData trailing) State.runUnknown

/-! ### Packets whose opcode is in no row of the table -/

/-- A delivered command packet with a reserved opcode: silence in `DISPATCH`, a mismatch in phase 2
(30_encoding.md rules R84, R88; 41_dispatch.md rules R148, R150). -/
def State.onReservedCommand (opcode : Byte) (s : State) : State :=
  match s.target.cd with
  | .wConf => s.confirmWrite opcode
  | .rConf => s.confirmRead opcode
  | _ => s.runUnknown

end Sys2Proof.Machine
end

