-- ==== Sys2Proof/Machine/Orchestrator.lean ====
section
/-! DEFINITION. The Sender's exchange orchestrator (42_orchestrator.md): how it stages a request and
what it does when a link operation of an exchange ends. -/

namespace Sys2Proof.Machine

/-- An accepted upstream request: `TX_LEN <- L`, `TX_BUF[0..L) <- b` if L is at most `PKT_MAX`, which is
256, `XO_STATE <- SEND` (42_orchestrator.md rule R181). -/
def Sender.begin (p : Params) (b : List Byte) (h : Sender) : Sender :=
  { h with
    xo := .send
    eng := if b.length ≤ p.pktMax then h.eng.stage b else { h.eng with txLen := b.length } }

/-- The XO in `IDLE`: it takes the next upstream request, or waits (42_orchestrator.md rule R181,
70_reset_and_hazards.md rule R230). -/
def State.acceptRequest (s : State) : State :=
  match s.requests with
  | [] => s
  | b :: rest => { s with requests := rest, host := s.host.begin s.cfg.host b }

/-- The exchange's SendPacket has ended: `TX_CSUM <- ACC` and `SETTLE`, or the error goes upstream
(42_orchestrator.md rules R181, R183, R184). -/
def Sender.afterSend (h : Sender) : Sender :=
  match h.eng.result with
  | .ok => { h with txCsum := h.eng.acc, xo := .settle }
  | .err k => h.respondErr k

/-- The exchange's ReceivePacket has ended: the reply, unexamined, or the error goes upstream
(42_orchestrator.md rules R181, R183, R185). -/
def Sender.afterReceive (h : Sender) : Sender :=
  match h.eng.result with
  | .ok => h.respondOk h.eng.rxPacket
  | .err k => h.respondErr k

end Sys2Proof.Machine
end

