-- ==== Sys2Proof/Machine/PortStep.lean ====
section
/-! DEFINITION. The machine one port transaction or one FSM transition at a time: the CD's transition
table (41_dispatch.md rule R160) and the XO's procedure (42_orchestrator.md rule R181), each over the
LE's step table (40_link_layer.md rule R112). Nothing else of the peer moves between two of its port
transactions (00_scope.md rule R10). -/

namespace Sys2Proof.Machine

/-! ### The Responder -/

/-- The link operation the CD waited for has ended: the "Recv" and "Send" rows of 41_dispatch.md rule
R160. -/
def Responder.ended (r : Responder) : Responder :=
  match r.cd with
  | .awaitCmd => if r.eng.result = .ok then r.latch else r
  | .wConf =>
    if r.eng.result = .ok then
      (if bufAt r.eng.rxBuf 0 = 0x00#8 then r.makeAck else r.makeUnexpected).goto .wReply
    else r
  | .rConf =>
    if r.eng.result = .ok then
      (if bufAt r.eng.rxBuf 0 = 0x03#8 then r else r.makeUnexpected).goto .rReply
    else r
  | .csAck => r.goto .awaitCmd
  | .wReply => r.goto .awaitCmd
  | .rReply => r.goto .awaitCmd
  | .wAck => r.goto (if r.eng.result = .ok then .wDecode else .awaitCmd)
  | .rAck => r.goto (if r.eng.result = .ok then .rDecode else .awaitCmd)
  | .dispatch => r
  | .wDecode => r
  | .wCopy => r
  | .rDecode => r
  | .rCopy => r

/-- The CD's reaction, if the LE has come back to `IDLE` (40_link_layer.md rule R119). -/
def Responder.reactIfIdle (r : Responder) : Responder :=
  if r.eng.state = .idle then r.ended else r

/-- The target address in a delivered command (30_encoding.md rule R91). -/
def Engine.rxAddr (e : Engine) : Word :=
  beWord (bufAt e.rxBuf 1) (bufAt e.rxBuf 2) (bufAt e.rxBuf 3) (bufAt e.rxBuf 4)

/-- `DISPATCH`: by `CMD` alone (41_dispatch.md rules R142, R160). -/
def Responder.decodeCmd (r : Responder) : Responder :=
  if r.cmd = 0x00#8 then r.makeAck.goto .csAck
  else if r.cmd = 0x01#8 then r.makeAck.goto .wAck
  else if r.cmd = 0x02#8 then r.makeAck.goto .rAck
  else r.goto .awaitCmd

/-- `W_DECODE` (41_dispatch.md rules R151, R160). -/
def Responder.decodeWriteFields (r : Responder) : Responder :=
  if r.cmdLen < 5 then r.goto .awaitCmd
  else
    { r with
      addr := r.eng.rxAddr
      cnt := r.cmdLen - 5
      j := 0
      cd := if r.cmdLen - 5 = 0 then .wConf else .wCopy }

/-- `R_DECODE` (41_dispatch.md rules R151, R160). -/
def Responder.decodeReadFields (r : Responder) : Responder :=
  if r.cmdLen < 6 then r.goto .awaitCmd
  else r.openReply r.eng.rxAddr (countOf (bufAt r.eng.rxBuf 5))

/-- `W_COPY`: one `MemWrite`, then `W_CONF` when `J = CNT` (41_dispatch.md rule R160). -/
def State.wCopyStep (s : State) : State :=
  if s.target.j < s.target.cnt then
    let s' := s.copyOutByte (bufAt s.target.eng.rxBuf (5 + s.target.j))
    if s'.target.j = s'.target.cnt then s'.gotoCd .wConf else s'
  else s.gotoCd .wConf

/-- `R_COPY`: one `MemRead`, then `TX_LEN <- CNT + 1` and `R_CONF` when `J = CNT` (41_dispatch.md
rule R160). -/
def State.rCopyStep (s : State) : State :=
  if s.target.j < s.target.cnt then
    let s' := s.copyInByte
    if s'.target.j = s'.target.cnt then (s'.onTarget Responder.closeReply).gotoCd .rConf else s'
  else (s.onTarget Responder.closeReply).gotoCd .rConf

/-- The CD starts a ReceivePacket (41_dispatch.md rules R141, R147). -/
def State.targetListen (s : State) : State :=
  s.onTarget (·.onEng (startReceive s.cfg.target))

/-- The CD starts a SendPacket; one that ends at once with INVALID_LENGTH has ended (41_dispatch.md
rule R154). -/
def State.targetSend (s : State) : State :=
  s.onTarget fun r => (r.onEng (startSend s.cfg.target)).reactIfIdle

/-- A transition of the CD with its LE idle (41_dispatch.md rule R160). -/
def State.targetLocal (s : State) : State :=
  match s.target.cd with
  | .awaitCmd => s.targetListen
  | .wConf => s.targetListen
  | .rConf => s.targetListen
  | .csAck => s.targetSend
  | .wAck => s.targetSend
  | .rAck => s.targetSend
  | .wReply => s.targetSend
  | .rReply => s.targetSend
  | .dispatch => s.onTarget Responder.decodeCmd
  | .wDecode => s.onTarget Responder.decodeWriteFields
  | .rDecode => s.onTarget Responder.decodeReadFields
  | .wCopy => s.wCopyStep
  | .rCopy => s.rCopyStep

/-- The Responder's outstanding `Xfer` yields. -/
def State.targetYield (y : Yield) (s : State) : State :=
  s.onTarget fun r => (r.onEng (Engine.onYield s.cfg.target y)).reactIfIdle

/-- One transition of the Responder against its scripted channel. -/
def State.targetTick (s : State) : State :=
  if s.target.eng.state = .idle then s.targetLocal
  else (s.onTarget (·.onEng Engine.consume)).targetYield s.target.eng.answer

/-! ### The Sender -/

/-- The XO's reaction, if the LE has come back to `IDLE` (42_orchestrator.md rule R181). -/
def Sender.reactIfIdle (h : Sender) : Sender :=
  if h.eng.state = .idle then
    match h.xo with
    | .send => h.afterSend
    | .recv => h.afterReceive
    | .idle => h
    | .settle => h
  else h

/-- A transition of the XO with its LE idle (42_orchestrator.md rules R181, R182). -/
def State.hostLocal (s : State) : State :=
  match s.host.xo with
  | .idle => s.acceptRequest
  | .send => s.onHost fun h => (h.onEng (startSend s.cfg.host)).reactIfIdle
  | .settle => s.onHost (·.goto .recv)
  | .recv => s.onHost (·.onEng (startReceive s.cfg.host))

/-- The Sender's outstanding `Xfer` yields. -/
def State.hostYield (y : Yield) (s : State) : State :=
  s.onHost fun h => (h.onEng (Engine.onYield s.cfg.host y)).reactIfIdle

/-- One transition of the Sender against its scripted channel. -/
def State.hostTick (s : State) : State :=
  if s.host.eng.state = .idle then s.hostLocal
  else (s.onHost (·.onEng Engine.consume)).hostYield s.host.eng.answer

/-- `n` transitions of the Responder. -/
def State.targetTicks : Nat → State → State
  | 0, s => s
  | n + 1, s => State.targetTicks n s.targetTick

/-- `n` transitions of the Sender. -/
def State.hostTicks : Nat → State → State
  | 0, s => s
  | n + 1, s => State.hostTicks n s.hostTick

end Sys2Proof.Machine
end

