-- ==== Sys2Proof/Machine/Channel.lean ====
section
/-! DEFINITION. The two peers joined by the channel of their link, the parameter `CHANNEL`
(60_exceptions.md rule R219): the lockstep channel, one with an idle line, or any channel. -/

namespace Sys2Proof.Machine

/-! ### One peer alone -/

/-- What an `Xfer` without a partner yields (60_exceptions.md rule R219(b)). -/
def loneYield : Option Byte → Yield
  | none => .timeout
  | some v => .byte v

/-- The Responder moves alone: a transition with its LE idle, or an outstanding `Xfer` that finds no
partner. A free channel answers from its script. -/
def State.targetAlone (s : State) : State :=
  match s.cfg.channel with
  | .paired lone _ =>
    if s.target.eng.state = .idle then s.targetLocal else s.targetYield (loneYield lone)
  | .free => s.targetTick

/-- The Sender moves alone. -/
def State.hostAlone (s : State) : State :=
  match s.cfg.channel with
  | .paired _ lone =>
    if s.host.eng.state = .idle then s.hostLocal else s.hostYield (loneYield lone)
  | .free => s.hostTick

/-! ### Both peers -/

/-- What a pair of transfers yields to each side, by the channel's draw (60_exceptions.md rule
R219(a)); the first of the results is the target's. -/
def Noise.yields (n : Noise) (fromTarget fromHost : Byte) : Yield × Yield :=
  match n with
  | .clean => (.byte fromHost, .byte fromTarget)
  | .drop => (.timeout, .timeout)
  | .corrupt toTarget toHost => (.byte (toTarget.getD fromHost), .byte (toHost.getD fromTarget))

/-- The next draw; a used-up list draws clean pairs. DESIGN CHOICE, notes/assumptions/9.md. -/
def State.draw (s : State) : Noise := s.noise.headD .clean

/-- The two outstanding `Xfer`s pair (60_exceptions.md rule R219(a), (c)). -/
def State.pairXfers (s : State) : State :=
  let y := s.draw.yields (s.target.eng.txByte s.cfg.target) (s.host.eng.txByte s.cfg.host)
  (({ s with noise := s.noise.tail } : State).targetYield y.1).hostYield y.2

/-- Two outstanding `Xfer`s on a free channel: it answers either or both. -/
def State.freeXfers (who : Option Role) (s : State) : State :=
  match who with
  | none => s.targetTick.hostTick
  | some .responder => s.targetTick
  | some .sender => s.hostTick

/-- Both peers have an `Xfer` outstanding. -/
def State.bothMove (who : Option Role) (s : State) : State :=
  match s.cfg.channel with
  | .paired _ _ => s.pairXfers
  | .free => s.freeXfers who

/-- The XO has a transition to make with its LE idle: it is inside an exchange, or a request waits. -/
def State.hostCanMove (s : State) : Bool := s.host.xo ≠ .idle || s.requests ≠ []

/-- Not both peers have an `Xfer` outstanding: one moves alone. Where the pace does not say which, a
transition that is no transfer comes before an `Xfer` finds no partner, the target's before the
host's. DESIGN CHOICE, notes/assumptions/9.md. -/
def State.oneMove (who : Option Role) (s : State) : State :=
  match who with
  | some .responder => s.targetAlone
  | some .sender => s.hostAlone
  | none =>
    if s.target.eng.state = .idle then s.targetAlone
    else if s.host.eng.state = .idle ∧ s.hostCanMove = false then s.targetAlone
    else s.hostAlone

/-- One transition of the link (60_exceptions.md rule R219). A peer whose LE is in an operation has an
`Xfer` outstanding at every transition, none is between two `Xfer`s: so with both LEs in an operation a
channel that pairs transfers times out neither `Xfer` alone, and the one-sided timeout in the middle of a
packet that 70_reset_and_hazards.md rule R240 gives as its example occurs on a free channel only. DESIGN
CHOICE, unsafe, notes/assumptions/9.md. -/
def State.linkMove (s : State) : State :=
  let s' := { s with pace := s.pace.tail }
  if s.target.eng.state ≠ .idle ∧ s.host.eng.state ≠ .idle then s'.bothMove (s.pace.headD none)
  else s'.oneMove (s.pace.headD none)

/-- `n` transitions of the link. -/
def State.linkMoves : Nat → State → State
  | 0, s => s
  | n + 1, s => State.linkMoves n s.linkMove

/-! ### Two link engines alone -/

/-- One pair of transfers of two engines, the sender of a packet and its receiver, each with its
peer's parameters, over the lockstep channel without noise. An engine whose partner is idle times
out; two in an operation always pair (DESIGN CHOICE, as in `State.linkMove`, notes/assumptions/9.md). -/
def lePair (ps pr : Params) (es er : Engine) : Engine × Engine :=
  if es.state = .idle then
    if er.state = .idle then (es, er) else (es, er.onYield pr .timeout)
  else
    if er.state = .idle then (es.onYield ps .timeout, er)
    else (es.onYield ps (.byte (er.txByte pr)), er.onYield pr (.byte (es.txByte ps)))

/-- `n` pairs of transfers of two engines. -/
def lePairs (ps pr : Params) : Nat → Engine × Engine → Engine × Engine
  | 0, x => x
  | n + 1, x => lePairs ps pr n (lePair ps pr x.1 x.2)

end Sys2Proof.Machine
end

