-- ==== Sys2Proof/Machine/Responses.lean ====
section
/-! DEFINITION. The three responses, executed by the Sender that received the packet: the XO passes
every reply upstream unexamined (42_orchestrator.md rules R181, R185). How the Responder makes them is
41_dispatch.md rules R143, R146, R149 (`Responder.makeAck`, `Responder.closeReply`,
`Responder.makeUnexpected`). -/

namespace Sys2Proof.Machine

/-- A delivered reply of these bytes: the exchange ends with an `Ok` response upstream
(42_orchestrator.md rule R181). It needs the XO in `RECV` and an idle LE (40_link_layer.md rule
R119). -/
def State.onReply (i : Instr) (s : State) : Host.Outcome State Fault Refusal :=
  if i.wellFormed = false then .fault .noSuchPacket
  else if s.host.eng.state ≠ .idle then .refused .engineBusy
  else match s.host.xo with
    | .recv => .next (s.onHost (Sender.respondOk (encode i)))
    | _ => .refused .replyNotAwaited

/-- RSP_UNEXPECTED_COMMAND: an ordinary `Ok` reply (60_exceptions.md rule R205). -/
def execRspUnexpectedCommand (s : State) : Host.Outcome State Fault Refusal :=
  s.onReply .rspUnexpectedCommand

/-- RSP_OK_WITH_CHECKSUM (42_orchestrator.md rules R185, R189). -/
def execRspOkWithChecksum (checksum : Word) (s : State) : Host.Outcome State Fault Refusal :=
  s.onReply (.rspOkWithChecksum checksum)

/-- RSP_READ_MEMORY_REGION_DATA (42_orchestrator.md rules R185, R188). -/
def execRspReadMemoryRegionData (data : List Byte) (s : State) :
    Host.Outcome State Fault Refusal :=
  s.onReply (.rspReadMemoryRegionData data)

end Sys2Proof.Machine
end

