-- ==== Sys2Proof/Machine/Dispatch.lean ====
section
/-! DEFINITION. One arm per instruction, each one direct call of its meaning. -/

namespace Sys2Proof.Machine

def exec (i : Instr) (s : State) : Host.Outcome State Fault Refusal :=
  match i with
  | .checkStatus trailing => Sys2Proof.Machine.execCheckStatus trailing s
  | .writeMemoryRegion ops => Sys2Proof.Machine.execWriteMemoryRegion ops s
  | .readMemoryRegion ops => Sys2Proof.Machine.execReadMemoryRegion ops s
  | .readMemoryRegionData trailing => Sys2Proof.Machine.execReadMemoryRegionData trailing s
  | .rspUnexpectedCommand => Sys2Proof.Machine.execRspUnexpectedCommand s
  | .rspOkWithChecksum checksum => Sys2Proof.Machine.execRspOkWithChecksum checksum s
  | .rspReadMemoryRegionData data => Sys2Proof.Machine.execRspReadMemoryRegionData data s

end Sys2Proof.Machine
end

