-- ==== Sys2Proof/Machine/PacketStep.lean ====
section
/-! DEFINITION. The machine one packet at a time: the fetch of an instruction is a ReceivePacket
(40_link_layer.md rule R104), its execution is `exec` of the decoded packet. Also the turns of the two
peers and the reset inputs. -/

namespace Sys2Proof.Machine

/-! ### The Responder -/

/-- The command packet the CD acts on: in `DISPATCH` the latched `CMD` and `CMD_LEN` with the rest of
`RX_BUF`, in phase 2 the delivered packet (41_dispatch.md rules R141, R142, R148). -/
def Responder.packet (r : Responder) : List Byte :=
  if r.cd = .dispatch then r.cmd :: (bufTake r.eng.rxBuf r.cmdLen).tail else r.eng.rxPacket

/-- A delivered packet is run: the instruction it decodes to, or the rule for reserved opcodes
(41_dispatch.md rules R142, R148, R150). -/
def State.runCommand (s : State) : Host.Outcome State Fault Refusal :=
  match decode .h2t s.target.packet with
  | .ok i => exec i s
  | .error _ => .next (s.onReservedCommand (s.target.packet.headD 0x00#8))

/-- The ReceivePacket of `AWAIT_CMD`, `W_CONF` or `R_CONF`, and `CMD`, `CMD_LEN` latched on leaving
`AWAIT_CMD` (41_dispatch.md rules R141, R147). -/
def State.receiveCommand (s : State) : State :=
  s.onTarget fun r =>
    let r' := r.onEng (receivePacket s.cfg.target)
    if r.cd = .awaitCmd ∧ r'.eng.result = .ok then r'.latch else r'

/-- The CD listens: a link error leaves it where it is, a packet is run (41_dispatch.md rules R141,
R147). -/
def State.listen (s : State) : Host.Outcome State Fault Refusal :=
  let s' := s.receiveCommand
  if s'.target.eng.result = .ok then s'.runCommand else .next s'

/-- The Responder's next packet. From a state in the middle of a packet, one transition of it. -/
def State.targetPacket (s : State) : Host.Outcome State Fault Refusal :=
  if s.target.eng.state ≠ .idle then .next s.targetTick
  else match s.target.cd with
    | .awaitCmd => s.listen
    | .wConf => s.listen
    | .rConf => s.listen
    | .dispatch => s.runCommand
    | .csAck => .next s.targetLocal
    | .wAck => .next s.targetLocal
    | .wDecode => .next s.targetLocal
    | .wCopy => .next s.targetLocal
    | .wReply => .next s.targetLocal
    | .rAck => .next s.targetLocal
    | .rDecode => .next s.targetLocal
    | .rCopy => .next s.targetLocal
    | .rReply => .next s.targetLocal

/-! ### The Sender -/

/-- A delivered reply is run: every reply goes upstream, one of a response's format through that
response's meaning (42_orchestrator.md rules R181, R185; 30_encoding.md rule R85). -/
def State.runReply (s : State) : Host.Outcome State Fault Refusal :=
  match decode .t2h s.host.eng.rxPacket with
  | .ok i => exec i s
  | .error _ => .next (s.onHost (Sender.respondOk s.host.eng.rxPacket))

/-- The exchange's ReceivePacket, after the settle delay (42_orchestrator.md rules R181, R182). -/
def State.receiveReply (s : State) : State :=
  s.onHost fun h => (h.goto .recv).onEng (receivePacket s.cfg.host)

/-- The exchange from `SETTLE` on (42_orchestrator.md rule R181). -/
def State.awaitReply (s : State) : Host.Outcome State Fault Refusal :=
  let s' := s.receiveReply
  match s'.host.eng.result with
  | .ok => s'.runReply
  | .err k => .next (s'.onHost (Sender.respondErr k))

/-- The exchange's SendPacket and what follows it (42_orchestrator.md rules R181, R184). -/
def State.sendRequest (s : State) : State :=
  s.onHost fun h => (h.onEng (sendPacket s.cfg.host)).afterSend

/-- The exchange from `SEND` on (42_orchestrator.md rule R181). -/
def State.exchange (s : State) : Host.Outcome State Fault Refusal :=
  let s' := s.sendRequest
  if s'.host.eng.result = .ok then s'.awaitReply else .next s'

/-- The Sender's next exchange: performExchange of the next request (42_orchestrator.md rule R181).
From a state in the middle of a packet, one transition of it. -/
def State.hostPacket (s : State) : Host.Outcome State Fault Refusal :=
  if s.host.eng.state ≠ .idle then .next s.hostTick
  else match s.host.xo with
    | .idle => if s.requests = [] then .next s else s.acceptRequest.exchange
    | .send => s.exchange
    | .settle => s.awaitReply
    | .recv => s.awaitReply

/-! ### Turns and the reset inputs -/

/-- The Responder's turn: its reset input acts instead of it (70_reset_and_hazards.md rules R230,
R231), else it does what `act` says. -/
def State.targetTurn (act : State → Host.Outcome State Fault Refusal) (s : State) :
    Host.Outcome State Fault Refusal :=
  let s' := { s with turn := .sender, targetReset := s.targetReset.tail }
  if s.targetReset.headD false then .next s'.resetTarget else act s'

/-- The Sender's turn. -/
def State.hostTurn (act : State → Host.Outcome State Fault Refusal) (s : State) :
    Host.Outcome State Fault Refusal :=
  let s' := { s with turn := .responder, hostReset := s.hostReset.tail }
  if s.hostReset.headD false then .next s'.resetHost else act s'

/-- A transition of two linked peers. A peer whose reset input is asserted is reset and makes no port
transaction; the other goes on alone, so that a transfer it has outstanding finds no partner
(70_reset_and_hazards.md rules R230, R231, R235). That it moves in the same transition, and which link
error its operation then ends with, is a DESIGN CHOICE, unsafe, notes/assumptions/9.md and 11.md. -/
def State.linkStep (s : State) : State :=
  let s' := { s with targetReset := s.targetReset.tail, hostReset := s.hostReset.tail }
  match s.targetReset.headD false, s.hostReset.headD false with
  | false, false => s'.linkMove
  | true, false => s'.resetTarget.hostAlone
  | false, true => s'.resetHost.targetAlone
  | true, true => s'.resetTarget.resetHost

/-- The turn of two linked peers: two peers whose parameters do not fit have no meaning
(60_exceptions.md rule R222). -/
def State.linkTurn (s : State) : Host.Outcome State Fault Refusal :=
  if s.cfg.compatible then .next s.linkStep else .refused .incompatiblePeers

/-! ### A command packet put where the Responder fetches it -/

/-- What the channel yields to a ReceivePacket when one clean frame with this payload comes in: the
match, the echoes, the length byte, the payload (30_encoding.md rules R70, R74). -/
def frameYields (p : Params) (payload : List Byte) : List Yield :=
  .byte p.hsRecv :: (List.replicate p.recvEchoCount (.byte p.hsRecv) ++
    .byte (lengthByte payload.length) :: payload.map .byte)

/-- The CD's states in which it receives (41_dispatch.md rules R141, R147). -/
def CdState.listening : CdState → Bool
  | .awaitCmd | .wConf | .rConf => true
  | _ => false

/-- The machine with a command packet next on the Responder's wire, and the Responder about to
receive: its LE idle, its CD listening, its turn, no reset at it. -/
def State.placeCommand (payload : List Byte) (s : State) : State :=
  { s with
    schedule := .byPacket
    turn := .responder
    targetReset := []
    target :=
      { s.target with
        cd := if s.target.cd.listening then s.target.cd else .awaitCmd
        eng :=
          { s.target.eng with
            state := .idle
            port :=
              { s.target.eng.port with
                inbox := frameYields s.cfg.target payload ++ s.target.eng.port.inbox } } } }

end Sys2Proof.Machine
end

