-- ==== Sys2Proof/Machine/Step.lean ====
section
/-! DEFINITION. One step of the machine. -/

namespace Sys2Proof.Machine

/-- One step (notes/assumptions/10.md): by packet, the next packet of the peer whose turn it is; by
port, the next transition of the peer whose turn it is; linked, the next transition of the link. -/
def step (s : State) : Host.Outcome State Fault Refusal :=
  match s.schedule with
  | .byPacket =>
    match s.turn with
    | .responder => s.targetTurn State.targetPacket
    | .sender => s.hostTurn State.hostPacket
  | .byPort =>
    match s.turn with
    | .responder => s.targetTurn fun s => .next s.targetTick
    | .sender => s.hostTurn fun s => .next s.hostTick
  | .linked => s.linkTurn

/-- The machine with the command packet of a table row next on the Responder's wire
(notes/assumptions/15.md). -/
def State.withFetchWord (s : State) (nbits w : Nat) : State := s.placeCommand (packetOfWord nbits w)

end Sys2Proof.Machine
end

