-- ==== Sys2Proof/Safety.lean ====
section
/-! DEFINITION. What claims about the machine are stated in: the invariant of the link, the scripts
under which a link operation succeeds, and the transfers it then makes. -/

namespace Sys2Proof.Machine

/-! ### The invariant -/

/-- Where a link operation stands in its phase (40_link_layer.md rule R112): a SendPacket in progress
has a legal length; a counter has not yet reached the bound that ends its phase. -/
def Engine.phaseOk (p : Params) (e : Engine) : Bool :=
  match e.state with
  | .idle => true
  | .sSearch => !e.badLength p && e.hsCnt < p.hsAttempts
  | .sConfirm => !e.badLength p && e.echoCnt < p.sendConfirmCount
  | .sLen => !e.badLength p
  | .sPay => !e.badLength p && e.idx < e.txLen
  | .rSearch => e.hsCnt < p.hsAttempts
  | .rEcho => e.echoCnt < p.recvEchoCount
  | .rLen => true
  | .rPay => e.idx < e.rxLen

/-- The ranges of the link engine's registers (10_state.md rules R24, R26, R27). -/
def Engine.inv (p : Params) (e : Engine) : Bool :=
  1 ≤ e.rxLen && e.rxLen ≤ 256 && e.hsCnt ≤ p.hsAttempts && e.idx ≤ 256 && e.phaseOk p

/-- The CD's states in which it sends (41_dispatch.md rule R160). -/
def CdState.replying : CdState → Bool
  | .csAck | .wAck | .wReply | .rAck | .rReply => true
  | _ => false

/-- What the CD's registers hold in each state: the latched packet is the delivered one until phase 2
(so no cell at or above `RX_LEN` is read, 10_state.md rule R39), a copy has bytes left, and the data
reply stands in `TX_BUF` while the confirmation is awaited (70_reset_and_hazards.md rule R241). -/
def Responder.cdOk (r : Responder) : Bool :=
  match r.cd with
  | .awaitCmd => true
  | .dispatch => r.cmdLen = r.eng.rxLen && r.cmd = bufAt r.eng.rxBuf 0
  | .csAck => true
  | .wAck => r.cmdLen = r.eng.rxLen
  | .wDecode => r.cmdLen = r.eng.rxLen
  | .wCopy => r.cnt + 5 = r.eng.rxLen && r.j < r.cnt
  | .wConf => true
  | .wReply => true
  | .rAck => r.cmdLen = r.eng.rxLen
  | .rDecode => r.cmdLen = r.eng.rxLen
  | .rCopy => r.j < r.cnt
  | .rConf => 1 ≤ r.cnt && r.eng.txLen = r.cnt + 1
  | .rReply => true

/-- The Responder's registers in their ranges (10_state.md rule R29), and its LE in an operation only
where the CD waits for that operation (41_dispatch.md rule R160). -/
def Responder.inv (p : Params) (r : Responder) : Bool :=
  r.eng.inv p && 1 ≤ r.cmdLen && r.cmdLen ≤ 256 && r.cnt ≤ 256 && r.j ≤ 256 &&
  (!r.eng.state.receiving || r.cd.listening) && (!r.eng.state.sending || r.cd.replying) && r.cdOk

/-- The Sender's LE is in an operation only where the XO waits for it (42_orchestrator.md rule R181). -/
def Sender.inv (p : Params) (h : Sender) : Bool :=
  h.eng.inv p && (!h.eng.state.receiving || h.xo = .recv) && (!h.eng.state.sending || h.xo = .send)

/-- The invariant of the link: parameters in range, both peers' registers, memory in canonical form, and
no free value drawn by both peers (notes/assumptions/6.md). -/
def State.inv (s : State) : Bool :=
  s.cfg.inRange && s.target.inv s.cfg.target && s.host.inv s.cfg.host && Memory.wf s.mem &&
  s.target.eng.draws % 2 = 0 && s.host.eng.draws % 2 = 1

/-! ### Scripts and transfers -/

/-- The channel yields these bytes, one a transfer. -/
def byteYields (vs : List Byte) : List Yield := vs.map .byte

/-- Transfers that all yielded a byte: what each transmitted, what each got back. -/
def xfers (os vs : List Byte) : List PortEvent := List.zipWith (fun o v => .xfer o (.byte v)) os vs

/-- `vs` are returned bytes under which a SendPacket of a packet of length `len` succeeds: a length that
is not rejected, at most `HS_ATTEMPTS` - 1 misses, the handshake byte, and any bytes for the
confirmations, the length and the payload (40_link_layer.md rules R103, R105, R106). -/
def AnswersSend (p : Params) (len : Nat) (vs : List Byte) : Prop :=
  1 ≤ len ∧ len ≤ p.pktMax ∧
  ∃ misses back : List Byte, vs = misses ++ p.hsSend :: back ∧ (∀ m ∈ misses, m ≠ p.hsSend) ∧
    misses.length < p.hsAttempts ∧ back.length = p.sendConfirmCount + 1 + len

/-- `vs` are returned bytes under which a ReceivePacket delivers `packet` (40_link_layer.md rules R104,
R105, R106). -/
def AnswersReceive (p : Params) (packet vs : List Byte) : Prop :=
  1 ≤ packet.length ∧ packet.length ≤ 256 ∧
  ∃ misses echoes : List Byte,
    vs = misses ++ p.hsRecv :: (echoes ++ lengthByte packet.length :: packet) ∧
    (∀ m ∈ misses, m ≠ p.hsRecv) ∧ misses.length < p.hsAttempts ∧
    echoes.length = p.recvEchoCount

/-- The bytes the sender of a packet transmits when its search takes `k` transfers (30_encoding.md rule
R74). -/
def sentFrame (p : Params) (k : Nat) (packet : List Byte) : List Byte :=
  List.replicate k p.hsSend ++ List.replicate p.sendConfirmCount p.hsSend ++
    lengthByte packet.length :: packet

/-- The bytes the receiver of a packet transmits when its search takes `k` transfers (30_encoding.md
rule R74, 40_link_layer.md rule R108). -/
def echoedFrame (p : Params) (k len : Nat) : List Byte :=
  List.replicate k 0x00#8 ++ List.replicate p.recvEchoCount p.hsRecv ++
    0x00#8 :: (List.range len).map (BitVec.ofNat 8)

/-- The port transactions added to a log. -/
def newEvents (before after : List PortEvent) : List PortEvent := after.drop before.length

/-- An `Xfer` that yielded a byte. -/
def PortEvent.isByteXfer : PortEvent → Bool
  | .xfer _ (.byte _) => true
  | _ => false

/-- An `Xfer` that yielded `Timeout`. -/
def PortEvent.isTimeout : PortEvent → Bool
  | .xfer _ .timeout => true
  | _ => false

/-- A `MemRead` or `MemWrite`. -/
def PortEvent.isAccess : PortEvent → Bool
  | .memRead _ _ => true
  | .memWrite _ _ => true
  | _ => false

/-- How a link operation that made the transfers `evs` ended, `bound` being its transfer bound
(40_link_layer.md rule R111, 60_exceptions.md rule R206): with `OK` and no `Timeout`; with
BYTE_TIMEOUT, the last transfer and no other a `Timeout`; with HANDSHAKE_TIMEOUT, after exactly
`attempts` transfers and no `Timeout`; or with INVALID_LENGTH and no transfer. -/
def EndsAs (attempts bound : Nat) (evs : List PortEvent) (r : Result) : Prop :=
  evs.length ≤ bound ∧
  ((r = .ok ∧ ∀ ev ∈ evs, ev.isByteXfer) ∨
   (r = .err .byteTimeout ∧ ∃ front last, evs = front ++ [last] ∧ last.isTimeout ∧
      ∀ ev ∈ front, ev.isByteXfer) ∨
   (r = .err .handshakeTimeout ∧ evs.length = attempts ∧ ∀ ev ∈ evs, ev.isByteXfer) ∨
   (r = .err .invalidLength ∧ evs = []))

/-- The bytes the transfers among these port transactions yielded. -/
def byteAnswers (evs : List PortEvent) : List Byte :=
  evs.filterMap fun ev =>
    match ev with
    | .xfer _ (.byte v) => some v
    | _ => none

/-- The accesses of a copy of `data` to `addr`, in ascending address order (20_memory.md rule R56). -/
def writeEvents (addr : Word) (data : List Byte) : List PortEvent :=
  data.mapIdx fun j b => .memWrite (addrOf Config.addrBits addr j) b

/-- The accesses of reading the bytes `vs` from `addr` on, in ascending address order (20_memory.md rule
R56). -/
def readEvents (addr : Word) (vs : List Byte) : List PortEvent :=
  vs.mapIdx fun j v => .memRead (addrOf Config.addrBits addr j) v

/-- An address that none of these stores of other agents touches (20_memory.md rule R61). -/
def OutsideStores (stores : List (List (Word × Byte))) (k : Nat) : Prop :=
  ∀ l ∈ stores, ∀ c ∈ l, c.1.toNat ≠ k

/-- No other agent of the target stores between the CD's coming accesses (20_memory.md rule R61). -/
def Undisturbed (stores : List (List (Word × Byte))) : Prop := ∀ l ∈ stores, l = []

/-- An address that a copy of `n` bytes from `addr` on does not touch. -/
def OutsideCopy (addr : Word) (n k : Nat) : Prop :=
  ∀ j, j < n → (addrOf Config.addrBits addr j).toNat ≠ k

end Sys2Proof.Machine
end

