-- ==== Sys2Proof/Certificates/Slice0/Obligations.lean ====
section
/-! DEFINITION. The statements for the provers, in the order of OBLIGATIONS.json. Each docstring names
the rules of spec/ it formalises or rests on. `∀ cfg` stands in every statement about a state: the
parameters are data of the state. -/

open Sys2Proof Sys2Proof.Machine

/-! ### Length byte, fields, checksum -/

/-- 30_encoding.md rule R72: the length byte both ways, and a length outside 1..256 is rejected before
anything is transmitted: SendPacket changes `LE_RESULT` alone. -/
def Obligations.LengthByteRoundTrip : Prop :=
  (∀ len, 1 ≤ len → len ≤ 256 → lengthOf (lengthByte len) = len) ∧
  (∀ v : Byte, lengthByte (lengthOf v) = v ∧ 1 ≤ lengthOf v ∧ lengthOf v ≤ 256) ∧
  (∀ len, 1 ≤ len → len ≤ 256 → (lengthByte len).toNat = len - 1) ∧
  (lengthByte 1 = 0x00#8 ∧ lengthByte 256 = 0xFF#8) ∧
  (∀ (p : Params) (e : Engine), p.inRange → e.state = .idle → (e.txLen < 1 ∨ 256 < e.txLen) →
    sendPacket p e = { e with result := .err .invalidLength })

/-- 20_memory.md rule R52(a), (b), 30_encoding.md rule R91: addresses big-endian, checksums
little-endian, nothing lost either way. -/
def Obligations.WordByteOrder : Prop :=
  (∀ b3 b2 b1 b0 : Byte, (beWord b3 b2 b1 b0).toNat =
      b3.toNat * 2 ^ 24 + b2.toNat * 2 ^ 16 + b1.toNat * 2 ^ 8 + b0.toNat) ∧
  (∀ w : Word, ∃ b3 b2 b1 b0, beBytes w = [b3, b2, b1, b0] ∧ leBytes w = [b0, b1, b2, b3] ∧
      beWord b3 b2 b1 b0 = w ∧ leWord b0 b1 b2 b3 = w) ∧
  (∀ b3 b2 b1 b0 : Byte, beBytes (beWord b3 b2 b1 b0) = [b3, b2, b1, b0] ∧
      leBytes (leWord b3 b2 b1 b0) = [b3, b2, b1, b0])

/-- 40_link_layer.md rule R100: bit by bit, the accumulator rotated left by 3 and the byte in bits
7:0, with the rule's corner cases and its example. -/
def Obligations.CsumStepBits : Prop :=
  (∀ (acc : Word) (b : Byte) (i : Nat), i < 32 →
    (csumStep acc b).getLsbD i = (acc.getLsbD ((i + 29) % 32) ^^ (decide (i < 8) && b.getLsbD i))) ∧
  csumStep 0x00000000#32 0x00#8 = 0x00000000#32 ∧
  csumStep 0xFFFFFFFF#32 0xFF#8 = 0xFFFFFF00#32 ∧
  csumStep 0x80000000#32 0x00#8 = 0x00000004#32 ∧
  csumStep 0xE0000000#32 0x00#8 = 0x00000007#32 ∧
  csumStep 0x12345678#32 0x01#8 = 0x91A2B3C1#32

/-- 40_link_layer.md rule R101: Csum is the left fold of CsumStep, and its closed form, whose second
part is `Csum(0, B)` and does not depend on the start value. -/
def Obligations.CsumClosedForm : Prop :=
  ∀ (s : Word) (bs : List Byte),
    csum s [] = s ∧
    (∀ b, csum s (bs ++ [b]) = csumStep (csum s bs) b) ∧
    csum s bs = rotl32 s ((3 * bs.length) % 32) ^^^ csum 0#32 bs ∧
    csum 0#32 bs =
      (bs.mapIdx fun i b => rotl32 (b.setWidth 32) ((3 * (bs.length - 1 - i)) % 32)).foldl
        (· ^^^ ·) 0#32

/-- 40_link_layer.md rule R102(a): chunk-insensitive. -/
def Obligations.CsumChunks : Prop :=
  ∀ (s : Word) (b1 b2 : List Byte), csum (csum s b1) b2 = csum s (b1 ++ b2)

/-- 40_link_layer.md rule R102(a): order-sensitive: swapping two unequal bytes changes the checksum
exactly when their distance is no multiple of 32. -/
def Obligations.CsumSwapDetected : Prop :=
  ∀ (s : Word) (bs : List Byte) (i j : Nat) (hi : i < j) (hj : j < bs.length),
    bs[i] ≠ bs[j] →
    (csum s ((bs.set i bs[j]).set j bs[i]) = csum s bs ↔ 32 ∣ (j - i))

/-- 40_link_layer.md rule R102(c): a 256-byte packet of equal bytes, and the packet 0x00 .. 0xFF, have
the checksum of no bytes. -/
def Obligations.CsumPeriod256 : Prop :=
  ∀ s : Word, (∀ b : Byte, csum s (List.replicate 256 b) = s) ∧
    csum s ((List.range 256).map (BitVec.ofNat 8)) = s

/-- 20_memory.md rule R57: the address of data byte j is (ADDR + j) mod 2^32, `ADDR_BITS` having the value
00_scope.md rule R6 gives it, and a copy that runs past 0xFFFFFFFF continues at 0x00000000, for writes
and reads alike; the rule's example. -/
def Obligations.CopyAddressesWrap : Prop :=
  (∀ (addr : Word) (j : Nat), (addrOf Config.addrBits addr j).toNat = (addr.toNat + j) % 2 ^ 32) ∧
  (∀ (s : State) (data : List Byte), s.cfg.inRange → s.target.j = 0 →
    (s.copyOut data).target.eng.port.trace =
      s.target.eng.port.trace ++ writeEvents s.target.addr data) ∧
  (∀ (s : State) (n : Nat), s.cfg.inRange → s.target.j = 0 →
    ∃ vs : List Byte, vs.length = n ∧ (s.copyIn n).target.eng.port.trace =
      s.target.eng.port.trace ++ readEvents s.target.addr vs) ∧
  writeEvents 0xFFFFFFFE#32 [0x01#8, 0x02#8, 0x03#8] =
    [.memWrite 0xFFFFFFFE#32 0x01#8, .memWrite 0xFFFFFFFF#32 0x02#8, .memWrite 0x00000000#32 0x03#8]

/-! ### The link operations -/

/-- 40_link_layer.md rules R103, R105, R106, R113, R114, 30_encoding.md rule R74: against a channel
that lets the search match, SendPacket transmits exactly its frame, folds exactly the payload, ends
`OK` and leaves every other register alone. The whole next engine. -/
def Obligations.SendPacketSucceeds : Prop :=
  ∀ (p : Params) (e : Engine) (vs : List Byte) (rest : List Yield),
    1 ≤ e.txLen → e.txLen ≤ 256 → AnswersSend p e.txLen vs →
    e.port.inbox = byteYields vs ++ rest →
    sendPacket p e =
      { e with
        state := .idle
        result := .ok
        acc := csum p.seed e.txPacket
        hsCnt := vs.length - (p.sendConfirmCount + 1 + e.txLen)
        echoCnt := p.sendConfirmCount
        idx := e.txLen
        port :=
          { inbox := rest
            trace := e.port.trace ++ xfers
              (sentFrame p (vs.length - (p.sendConfirmCount + 1 + e.txLen)) e.txPacket) vs } }

/-- 40_link_layer.md rules R104, R105, R106, R108, R113, 30_encoding.md rule R74: against a channel that
brings in a frame, ReceivePacket delivers its packet, folds exactly the payload, ends `OK` and leaves
every other register alone. The whole next engine. The bytes it transmits in the length and payload
transfers are rule R108's, the spec's decision D7, which this statement adopts
(notes/assumptions/12.md). -/
def Obligations.ReceivePacketDelivers : Prop :=
  ∀ (p : Params) (e : Engine) (packet vs : List Byte) (rest : List Yield),
    AnswersReceive p packet vs → e.port.inbox = byteYields vs ++ rest →
    (receivePacket p e).rxPacket = packet ∧
    receivePacket p e =
      { e with
        state := .idle
        result := .ok
        acc := csum p.seed packet
        rxBuf := bufPutAll e.rxBuf 0 packet
        rxLen := packet.length
        hsCnt := vs.length - (p.recvEchoCount + 1 + packet.length)
        echoCnt := p.recvEchoCount
        idx := packet.length
        port :=
          { inbox := rest
            trace := e.port.trace ++ xfers
              (echoedFrame p (vs.length - (p.recvEchoCount + 1 + packet.length)) packet.length) vs } }

/-- 40_link_layer.md rules R103, R109, R111, R115, 60_exceptions.md rules R200, R202, R203, R206:
whatever the channel does, SendPacket ends in `IDLE` within its transfer bound, in exactly one of its
four ways, takes one yield a transfer, holds, unless it rejected the length, the checksum of exactly
the payload bytes whose transfer yielded a byte, and never writes the transmit or receive buffers. The
payload transfers that yielded are those after the `HS_CNT` of the search, the confirmations and the
length. -/
def Obligations.SendPacketEnds : Prop :=
  ∀ (p : Params) (e : Engine), ∃ evs : List PortEvent,
    (sendPacket p e).port.trace = e.port.trace ++ evs ∧
    (sendPacket p e).port.inbox = e.port.inbox.drop evs.length ∧
    EndsAs p.hsAttempts (p.hsAttempts + p.sendConfirmCount + 1 + e.txLen) evs
      (sendPacket p e).result ∧
    (sendPacket p e).state = .idle ∧
    (sendPacket p e).txBuf = e.txBuf ∧ (sendPacket p e).txLen = e.txLen ∧
    (e.state.receiving = false →
      (sendPacket p e).rxBuf = e.rxBuf ∧ (sendPacket p e).rxLen = e.rxLen) ∧
    ((sendPacket p e).result = .err .invalidLength ↔ (e.txLen < 1 ∨ p.pktMax < e.txLen)) ∧
    ((sendPacket p e).result = .err .invalidLength → (sendPacket p e).acc = e.acc) ∧
    ((sendPacket p e).result = .ok → (sendPacket p e).acc = csum p.seed e.txPacket) ∧
    ((sendPacket p e).result ≠ .err .invalidLength →
      (sendPacket p e).acc = csum p.seed (e.txPacket.take
        ((byteAnswers evs).length - ((sendPacket p e).hsCnt + p.sendConfirmCount + 1))))

/-- 40_link_layer.md rules R104, R109, R111, R115, 60_exceptions.md rules R200, R202, R203: whatever the
channel does, ReceivePacket ends in `IDLE` within its transfer bound with `OK` or a link error, never
INVALID_LENGTH; the checksum is that of exactly the bytes its payload transfers yielded, after `OK` of
the delivered packet; it never writes the transmit
buffer; `RX_LEN` stays in its range, the model's choice for its value after a failure
(notes/assumptions/6.md). -/
def Obligations.ReceivePacketEnds : Prop :=
  ∀ (p : Params) (e : Engine), ∃ evs : List PortEvent,
    (receivePacket p e).port.trace = e.port.trace ++ evs ∧
    (receivePacket p e).port.inbox = e.port.inbox.drop evs.length ∧
    EndsAs p.hsAttempts (p.hsAttempts + p.recvEchoCount + 1 + 256) evs (receivePacket p e).result ∧
    (receivePacket p e).result ≠ .err .invalidLength ∧
    (receivePacket p e).state = .idle ∧
    (receivePacket p e).txBuf = e.txBuf ∧ (receivePacket p e).txLen = e.txLen ∧
    1 ≤ (receivePacket p e).rxLen ∧ (receivePacket p e).rxLen ≤ 256 ∧
    (receivePacket p e).acc = csum p.seed
      ((byteAnswers evs).drop ((receivePacket p e).hsCnt + p.recvEchoCount + 1)) ∧
    ((receivePacket p e).result = .ok →
      (receivePacket p e).acc = csum p.seed (receivePacket p e).rxPacket)

/-- 40_link_layer.md rule R112, the send half: SendPacket as the procedure of rule R103 and as the step
table end in the same engine, transfer for transfer. `HS_ATTEMPTS` is at least 1 (00_scope.md rule
R6). -/
def Obligations.SendTableAgreesWithProcedure : Prop :=
  ∀ (p : Params) (e : Engine), p.inRange → e.state = .idle →
    Engine.ticks p (newEvents e.port.trace (sendPacket p e).port.trace).length (startSend p e) =
      sendPacket p e

/-- 40_link_layer.md rule R112, the receive half. `HS_ATTEMPTS` and `RECV_ECHO_COUNT` are at least 1
(00_scope.md rule R6). -/
def Obligations.ReceiveTableAgreesWithProcedure : Prop :=
  ∀ (p : Params) (e : Engine), p.inRange → e.state = .idle →
    Engine.ticks p (newEvents e.port.trace (receivePacket p e).port.trace).length
      (startReceive p e) = receivePacket p e

/-! ### Two engines on the lockstep channel -/

/-- 40_link_layer.md rules R110, R117: with `RECV_ECHO_COUNT = SEND_CONFIRM_COUNT + 1`, a SendPacket run
against a ReceivePacket over the lockstep channel delivers the packet bit for bit, both end `OK` after
3 + `SEND_CONFIRM_COUNT` + L pairs, and the two checksums are equal. -/
def Obligations.AlignedLinkDelivers : Prop :=
  ∀ (ps pr : Params) (es er : Engine), es.state = .idle → er.state = .idle →
    1 ≤ es.txLen → es.txLen ≤ 256 →
    ps.hsSend = pr.hsRecv → ps.hsSend ≠ 0x00#8 → ps.seed = pr.seed →
    2 ≤ ps.hsAttempts → ps.inRange → pr.inRange →
    pr.recvEchoCount = ps.sendConfirmCount + 1 →
    ∀ x, x = lePairs ps pr (3 + ps.sendConfirmCount + es.txLen)
        (startSend ps es, startReceive pr er) →
      x.1.state = .idle ∧ x.1.result = .ok ∧ x.2.state = .idle ∧ x.2.result = .ok ∧
      x.2.rxLen = es.txLen ∧ x.2.rxPacket = es.txPacket ∧
      x.1.acc = csum ps.seed es.txPacket ∧ x.2.acc = x.1.acc

/-- 40_link_layer.md rule R117, 90_conflicts.md C1: with the source's counts 1 and 1 the receiver's
length transfer returns the sender's confirmation byte, so it decodes `RX_LEN` = HS + 1 (86 for H2T,
171 for T2H), and its next transfer takes the sender's length byte as `RX_BUF[0]`. -/
def Obligations.MisalignedLinkReadsConfirmation : Prop :=
  ∀ (ps pr : Params) (es er : Engine), es.state = .idle → er.state = .idle →
    1 ≤ es.txLen → es.txLen ≤ 256 →
    ps.hsSend = pr.hsRecv → ps.hsSend ≠ 0x00#8 →
    2 ≤ ps.hsAttempts → ps.inRange → pr.inRange →
    ps.sendConfirmCount = 1 → pr.recvEchoCount = 1 →
    ∀ x, x = lePairs ps pr 4 (startSend ps es, startReceive pr er) →
      x.2.state = .rPay ∧ x.2.rxLen = ps.hsSend.toNat + 1 ∧
      bufAt x.2.rxBuf 0 = lengthByte es.txLen

/-- 40_link_layer.md rule R118: two peers that both send, or both receive, never lock: at every pair of
the clean lockstep channel each is still in its search or has ended with an error, the peer with the
smaller `HS_ATTEMPTS` with HANDSHAKE_TIMEOUT, one with a larger bound with BYTE_TIMEOUT as its partner
has stopped; by the larger bound both have ended. -/
def Obligations.RoleConfusionNeverLocks : Prop :=
  ∀ (pa pb : Params) (a b : Engine) (start : Params → Engine → Engine) (searching : LeState),
    1 ≤ pa.hsAttempts → 1 ≤ pb.hsAttempts →
    (start = startSend ∧ searching = .sSearch ∧ a.state = .idle ∧ b.state = .idle ∧
      a.badLength pa = false ∧ b.badLength pb = false ∧ pa.hsSend ≠ pb.hsSend) ∨
    (start = startReceive ∧ searching = .rSearch ∧ pa.hsRecv ≠ 0x00#8 ∧ pb.hsRecv ≠ 0x00#8) →
    ∀ (failure : Params → Params → Result),
      (failure = fun mine other =>
        if mine.hsAttempts ≤ other.hsAttempts then .err .handshakeTimeout else .err .byteTimeout) →
    ∀ n x, x = lePairs pa pb n (start pa a, start pb b) →
      (x.1.state = searching ∨ x.1.state = .idle ∧ x.1.result = failure pa pb) ∧
      (x.2.state = searching ∨ x.2.state = .idle ∧ x.2.result = failure pb pa) ∧
      (pa.hsAttempts ≤ n → pb.hsAttempts ≤ n → x.1.state = .idle ∧ x.2.state = .idle)

/-! ### Encoding -/

/-- 30_encoding.md rules R77-R83: decoding the encoding of any well-formed instruction gives it back. -/
def Obligations.DecodeOfEncode : Prop :=
  ∀ i : Instr, i.wellFormed → decode i.direction (encode i) = .ok i

/-- 30_encoding.md rules R77-R83: what decodes is a well-formed instruction of the direction it came
from, and its encoding is the packet decoded: no byte is dropped. -/
def Obligations.EncodeOfDecode : Prop :=
  ∀ (d : Direction) (bs : List Byte) (i : Instr), decode d bs = .ok i →
    encode i = bs ∧ i.wellFormed = true ∧ i.direction = d

/-- 30_encoding.md rules R75, R76, R84, R85: the reserved opcodes are refused by name, each in its own
direction, whatever follows them. -/
def Obligations.ReservedOpcodesRejected : Prop :=
  ∀ (op : Byte) (rest : List Byte), rest.length ≤ 255 →
    (4 ≤ op.toNat → decode .h2t (op :: rest) = .error (.reservedCommand op)) ∧
    (3 ≤ op.toNat → decode .t2h (op :: rest) = .error (.reservedResponse op))

/-- 30_encoding.md rules R77-R83, R89: a few packets written out byte by byte. -/
def Obligations.DecodedPackets : Prop :=
  decode .h2t [0x00#8] = .ok (.checkStatus []) ∧
  decode .h2t [0x01#8, 0x00#8, 0x00#8, 0x10#8, 0x00#8, 0x11#8, 0x22#8, 0x33#8] =
    .ok (.writeMemoryRegion (.full 0x00001000#32 [0x11#8, 0x22#8, 0x33#8])) ∧
  decode .h2t [0x02#8, 0x00#8, 0x00#8, 0x20#8, 0x00#8, 0x03#8] =
    .ok (.readMemoryRegion (.full 0x00002000#32 0x03#8 [])) ∧
  decode .h2t [0x03#8] = .ok (.readMemoryRegionData []) ∧
  decode .t2h [0x01#8, 0xC0#8, 0xB3#8, 0xA2#8, 0x91#8] = .ok (.rspOkWithChecksum 0x91A2B3C0#32) ∧
  decode .t2h [0x00#8] = .ok .rspUnexpectedCommand ∧
  decode .t2h [0x02#8, 0xDE#8, 0xAD#8] = .ok (.rspReadMemoryRegionData [0xDE#8, 0xAD#8])

/-! ### Reply construction -/

/-- 41_dispatch.md rule R149: MakeUnexpected writes `TX_BUF[0]` and `TX_LEN` and nothing else. -/
def Obligations.MakeUnexpectedWrites : Prop :=
  ∀ r : Responder, r.makeUnexpected =
    { r with eng := { r.eng with txBuf := bufPut r.eng.txBuf 0 0x00#8, txLen := 1 } }

/-- 41_dispatch.md rule R143, 30_encoding.md rules R80, R81, R91: MakeAck writes `TX_BUF[0..5)` and
`TX_LEN` and nothing else, and the packets it and MakeUnexpected leave decode, target to host, as
OkWithChecksum of `ACC` and as UnexpectedCommand. -/
def Obligations.RepliesDecode : Prop :=
  ∀ r : Responder,
    r.makeAck = { r with eng := { r.eng with txBuf := r.makeAck.eng.txBuf, txLen := 5 } } ∧
    (∀ i, 5 ≤ i → bufAt r.makeAck.eng.txBuf i = bufAt r.eng.txBuf i) ∧
    decode .t2h r.makeAck.eng.txPacket = .ok (.rspOkWithChecksum r.eng.acc) ∧
    decode .t2h r.makeUnexpected.eng.txPacket = .ok .rspUnexpectedCommand

/-! ### The commands -/

/-- 41_dispatch.md rules R144, R153, R156: CHECK_STATUS in `DISPATCH`, with any trailing bytes and
whatever the channel does: the ack of the received packet is put in place and sent, and the CD is back
in `AWAIT_CMD`. Frame: nothing but the LE's transmit side and `CD_STATE` changes. -/
def Obligations.CheckStatusCompletes : Prop :=
  ∀ (s : State) (trailing : List Byte), trailing.length ≤ 255 →
    s.target.eng.state = .idle → s.target.cd = .dispatch →
    ∃ t, exec (.checkStatus trailing) s = .next t ∧
      t = { s with target := { s.target with cd := .awaitCmd, eng := t.target.eng } } ∧
      t.target.eng = sendPacket s.cfg.target s.target.makeAck.eng ∧
      t.target.eng.txPacket = 0x01#8 :: leBytes s.target.eng.acc ∧
      t.target.eng.state = .idle ∧
      t.target.eng.rxBuf = s.target.eng.rxBuf ∧ t.target.eng.rxLen = s.target.eng.rxLen ∧
      t.target.eng.draws = s.target.eng.draws

/-- 41_dispatch.md rules R141, R143, R144: CHECK_STATUS over a channel that lets the ack out: exactly the
ack's frame is transmitted, with the checksum little-endian. A step that receives a packet of any length
with opcode 0x00 in `AWAIT_CMD` answers it with the checksum over all of that packet. -/
def Obligations.CheckStatusAckGoesOut : Prop :=
  (∀ (s : State) (trailing vs : List Byte) (rest : List Yield), trailing.length ≤ 255 →
    s.target.eng.state = .idle → s.target.cd = .dispatch →
    AnswersSend s.cfg.target 5 vs → s.target.eng.port.inbox = byteYields vs ++ rest →
    ∃ t, exec (.checkStatus trailing) s = .next t ∧
      t.target.cd = .awaitCmd ∧ t.target.eng.result = .ok ∧ t.target.eng.port.inbox = rest ∧
      t.target.eng.port.trace = s.target.eng.port.trace ++ xfers
        (sentFrame s.cfg.target (vs.length - (s.cfg.target.sendConfirmCount + 6))
          (0x01#8 :: leBytes s.target.eng.acc)) vs) ∧
  (∀ (s : State) (trailing vr vs : List Byte) (rest : List Yield),
    s.schedule = .byPacket → s.turn = .responder → s.targetReset.headD false = false →
    s.target.eng.state = .idle → s.target.cd = .awaitCmd →
    AnswersReceive s.cfg.target (0x00#8 :: trailing) vr → AnswersSend s.cfg.target 5 vs →
    s.target.eng.port.inbox = byteYields vr ++ (byteYields vs ++ rest) →
    ∃ t os, step s = .next t ∧ os.length = vr.length ∧
      t.target.cd = .awaitCmd ∧ t.target.eng.result = .ok ∧ t.target.eng.port.inbox = rest ∧
      t.mem = s.mem ∧ t.host = s.host ∧
      t.target.eng.port.trace = s.target.eng.port.trace ++ xfers os vr ++ xfers
        (sentFrame s.cfg.target (vs.length - (s.cfg.target.sendConfirmCount + 6))
          (0x01#8 :: leBytes (csum s.cfg.target.seed (0x00#8 :: trailing)))) vs)

/-- 41_dispatch.md rules R143, R145, R155, 20_memory.md rules R56, R57, R60(a): WRITE_MEMORY_REGION with
its whole address, in `DISPATCH`, over a channel that lets the ack out: the ack's frame, then one
`MemWrite` for each data byte in ascending address order, then `W_CONF`. Every address holds its data
byte, if no other agent stores meanwhile; every other byte of memory that no other agent stores to is
as before. Memory is in its canonical form (`StepKeepsInvariant`). Frame: the host, the parameters, the
receive registers, `CMD` and `CMD_LEN` do not change. -/
def Obligations.WriteMemoryRegionCompletes : Prop :=
  ∀ (s : State) (addr : Word) (data vs : List Byte) (rest : List Yield), data.length ≤ 251 →
    s.cfg.inRange → Memory.wf s.mem → s.target.eng.state = .idle → s.target.cd = .dispatch →
    AnswersSend s.cfg.target 5 vs → s.target.eng.port.inbox = byteYields vs ++ rest →
    ∃ t, exec (.writeMemoryRegion (.full addr data)) s = .next t ∧
      t = { s with
            mem := t.mem
            otherStores := s.otherStores.drop data.length
            target :=
              { s.target with
                cd := .wConf
                addr := addr
                cnt := data.length
                j := data.length
                eng := t.target.eng } } ∧
      t.target.eng.state = .idle ∧ t.target.eng.result = .ok ∧ t.target.eng.port.inbox = rest ∧
      t.target.eng.rxBuf = s.target.eng.rxBuf ∧ t.target.eng.rxLen = s.target.eng.rxLen ∧
      t.target.eng.txPacket = 0x01#8 :: leBytes s.target.eng.acc ∧
      t.target.eng.port.trace = s.target.eng.port.trace ++ xfers
        (sentFrame s.cfg.target (vs.length - (s.cfg.target.sendConfirmCount + 6))
          (0x01#8 :: leBytes s.target.eng.acc)) vs ++ writeEvents addr data ∧
      (Undisturbed s.otherStores → ∀ (j : Nat) (hj : j < data.length),
        t.mem.read (addrOf Config.addrBits addr j).toNat = data[j]) ∧
      (∀ k, OutsideCopy addr data.length k → OutsideStores (s.otherStores.take data.length) k →
        t.mem.read k = s.mem.read k)

/-- 41_dispatch.md rules R146, R155, 30_encoding.md rule R82, 20_memory.md rules R56, R57, R60(b):
READ_MEMORY_REGION with all its fields, in `DISPATCH`, over a channel that lets the ack out: the ack's
frame, then one `MemRead` for each of the N bytes in ascending address order into `TX_BUF[1..]`, then
`TX_LEN` = N + 1 and `R_CONF`. The bytes are those of memory, if no other agent stores meanwhile; the
instruction stores nothing: memory afterwards is memory with the other agents' stores alone. -/
def Obligations.ReadMemoryRegionCompletes : Prop :=
  ∀ (s : State) (addr : Word) (n1 : Byte) (trailing vs : List Byte) (rest : List Yield),
    trailing.length ≤ 250 → s.cfg.inRange → s.target.eng.state = .idle →
    s.target.cd = .dispatch →
    AnswersSend s.cfg.target 5 vs → s.target.eng.port.inbox = byteYields vs ++ rest →
    ∃ t bytes, exec (.readMemoryRegion (.full addr n1 trailing)) s = .next t ∧
      bytes.length = n1.toNat + 1 ∧
      t = { s with
            mem := (s.otherStores.take (n1.toNat + 1)).foldl Memory.storeAll s.mem
            otherStores := s.otherStores.drop (n1.toNat + 1)
            target :=
              { s.target with
                cd := .rConf
                addr := addr
                cnt := n1.toNat + 1
                j := n1.toNat + 1
                eng := t.target.eng } } ∧
      t.target.eng.state = .idle ∧ t.target.eng.result = .ok ∧ t.target.eng.port.inbox = rest ∧
      t.target.eng.rxBuf = s.target.eng.rxBuf ∧ t.target.eng.rxLen = s.target.eng.rxLen ∧
      t.target.eng.txLen = n1.toNat + 2 ∧ t.target.eng.txPacket = 0x02#8 :: bytes ∧
      t.target.eng.port.trace = s.target.eng.port.trace ++ xfers
        (sentFrame s.cfg.target (vs.length - (s.cfg.target.sendConfirmCount + 6))
          (0x01#8 :: leBytes s.target.eng.acc)) vs ++ readEvents addr bytes ∧
      (Undisturbed s.otherStores → ∀ (j : Nat) (hj : j < bytes.length),
        bytes[j] = s.mem.read (addrOf Config.addrBits addr j).toNat)

/-- 41_dispatch.md rule R151, 60_exceptions.md rules R204(b), R207: a WRITE_MEMORY_REGION shorter than
5 bytes or a READ_MEMORY_REGION shorter than 6, in `DISPATCH`: the ack is sent, then the transaction
ends in `AWAIT_CMD`. Frame: no memory access, `ADDR`, `CNT`, `J` and the receive registers as before.
The whole next state. -/
def Obligations.ShortCommandsEndAfterAck : Prop :=
  ∀ (s : State) (bytes : List Byte), s.target.eng.state = .idle → s.target.cd = .dispatch →
    (bytes.length < 4 → exec (.writeMemoryRegion (.short bytes)) s =
      .next { s with
              target :=
                { s.target with
                  cd := .awaitCmd
                  eng := sendPacket s.cfg.target s.target.makeAck.eng } }) ∧
    (bytes.length < 5 → exec (.readMemoryRegion (.short bytes)) s =
      .next { s with
              target :=
                { s.target with
                  cd := .awaitCmd
                  eng := sendPacket s.cfg.target s.target.makeAck.eng } })

/-- 41_dispatch.md rule R152, 20_memory.md rule R66: when the ack's SendPacket ends with a link error, a
WRITE_MEMORY_REGION or READ_MEMORY_REGION ends in `AWAIT_CMD` with no memory access and no phase 2. The
whole next state. -/
def Obligations.AckFailureAbandons : Prop :=
  ∀ (s : State) (i : Instr) (addr : Word) (data trailing : List Byte) (n1 : Byte),
    i = .writeMemoryRegion (.full addr data) ∨ i = .readMemoryRegion (.full addr n1 trailing) →
    i.wellFormed → s.target.eng.state = .idle → s.target.cd = .dispatch →
    (sendPacket s.cfg.target s.target.makeAck.eng).result ≠ .ok →
    exec i s =
      .next { s with
              target :=
                { s.target with
                  cd := .awaitCmd
                  eng := sendPacket s.cfg.target s.target.makeAck.eng } }

/-- 41_dispatch.md rules R146, R148, R153, R156: READ_MEMORY_REGION_DATA in `R_CONF`, with any trailing
bytes, over a channel that lets the reply out: the data reply goes out as phase 1 built it, and the CD
is in `AWAIT_CMD`. Frame: nothing but the LE and `CD_STATE` changes. -/
def Obligations.ReadDataConfirmationReplies : Prop :=
  ∀ (s : State) (trailing vs : List Byte) (rest : List Yield), trailing.length ≤ 255 →
    s.target.eng.state = .idle → s.target.cd = .rConf →
    1 ≤ s.target.eng.txLen → s.target.eng.txLen ≤ 256 →
    AnswersSend s.cfg.target s.target.eng.txLen vs →
    s.target.eng.port.inbox = byteYields vs ++ rest →
    ∃ t, exec (.readMemoryRegionData trailing) s = .next t ∧
      t = { s with target := { s.target with cd := .awaitCmd, eng := t.target.eng } } ∧
      t.target.eng.state = .idle ∧ t.target.eng.result = .ok ∧ t.target.eng.port.inbox = rest ∧
      t.target.eng.txPacket = s.target.eng.txPacket ∧
      t.target.eng.rxBuf = s.target.eng.rxBuf ∧ t.target.eng.rxLen = s.target.eng.rxLen ∧
      t.target.eng.acc = csum s.cfg.target.seed s.target.eng.txPacket ∧
      t.target.eng.port.trace = s.target.eng.port.trace ++ xfers
        (sentFrame s.cfg.target
          (vs.length - (s.cfg.target.sendConfirmCount + 1 + s.target.eng.txLen))
          s.target.eng.txPacket) vs

/-- 41_dispatch.md rule R154, 60_exceptions.md rules R204(a), R208: the data reply of a 256-byte read
has `TX_LEN` = 257; its SendPacket ends with INVALID_LENGTH, nothing is transmitted, and the CD goes to
`AWAIT_CMD`. The whole next state. -/
def Obligations.Read256IsNeverSent : Prop :=
  ∀ (s : State) (trailing : List Byte), trailing.length ≤ 255 → s.cfg.inRange →
    s.target.eng.state = .idle → s.target.cd = .rConf → s.target.eng.txLen = 257 →
    exec (.readMemoryRegionData trailing) s =
      .next { s with
              target :=
                { s.target with
                  cd := .awaitCmd
                  eng := { s.target.eng with result := .err .invalidLength } } }

/-- 41_dispatch.md rule R150, 30_encoding.md rule R84: an opcode 0x03..0xFF in `DISPATCH` changes
`CD_STATE` alone: nothing is transmitted and no memory is accessed; 0x03 is the instruction
READ_MEMORY_REGION_DATA, the others are in no row of the opcode table. The silence is the spec's decision
D9, which this statement adopts (notes/assumptions/13.md). -/
def Obligations.UnknownOpcodeIsSilent : Prop :=
  ∀ (s : State), s.target.cd = .dispatch →
    (∀ trailing : List Byte, trailing.length ≤ 255 → s.target.eng.state = .idle →
      exec (.readMemoryRegionData trailing) s =
        .next { s with target := { s.target with cd := .awaitCmd } }) ∧
    (∀ opcode : Byte, s.onReservedCommand opcode =
      { s with target := { s.target with cd := .awaitCmd } })

/-- 41_dispatch.md rules R145, R148, R156, R157: CHECK_STATUS in `W_CONF`, with any trailing bytes,
matches: over a channel that lets it out, the OkWithChecksum of the confirmation packet itself is sent
and the CD is in `AWAIT_CMD`; memory is not accessed. A step that receives a packet of any length with
opcode 0x00 in `W_CONF` answers it with the checksum over all of that packet. -/
def Obligations.WriteConfirmationReplies : Prop :=
  (∀ (s : State) (trailing vs : List Byte) (rest : List Yield), trailing.length ≤ 255 →
    s.target.eng.state = .idle → s.target.cd = .wConf →
    AnswersSend s.cfg.target 5 vs → s.target.eng.port.inbox = byteYields vs ++ rest →
    ∃ t, exec (.checkStatus trailing) s = .next t ∧
      t = { s with target := { s.target with cd := .awaitCmd, eng := t.target.eng } } ∧
      t.target.eng.state = .idle ∧ t.target.eng.result = .ok ∧ t.target.eng.port.inbox = rest ∧
      t.target.eng.rxBuf = s.target.eng.rxBuf ∧ t.target.eng.rxLen = s.target.eng.rxLen ∧
      t.target.eng.port.trace = s.target.eng.port.trace ++ xfers
        (sentFrame s.cfg.target (vs.length - (s.cfg.target.sendConfirmCount + 6))
          (0x01#8 :: leBytes s.target.eng.acc)) vs) ∧
  (∀ (s : State) (trailing vr vs : List Byte) (rest : List Yield),
    s.schedule = .byPacket → s.turn = .responder → s.targetReset.headD false = false →
    s.target.eng.state = .idle → s.target.cd = .wConf →
    AnswersReceive s.cfg.target (0x00#8 :: trailing) vr → AnswersSend s.cfg.target 5 vs →
    s.target.eng.port.inbox = byteYields vr ++ (byteYields vs ++ rest) →
    ∃ t os, step s = .next t ∧ os.length = vr.length ∧
      t.target.cd = .awaitCmd ∧ t.target.eng.result = .ok ∧ t.target.eng.port.inbox = rest ∧
      t.mem = s.mem ∧ t.host = s.host ∧
      t.target.eng.port.trace = s.target.eng.port.trace ++ xfers os vr ++ xfers
        (sentFrame s.cfg.target (vs.length - (s.cfg.target.sendConfirmCount + 6))
          (0x01#8 :: leBytes (csum s.cfg.target.seed (0x00#8 :: trailing)))) vs)

/-- 41_dispatch.md rules R148, R149, R159: a command that is not the expected confirmation is answered
with UnexpectedCommand and is not executed: over a channel that lets it out the packet [0x00] is sent,
memory is not accessed, and the CD is in `AWAIT_CMD`. The same for a reserved opcode. -/
def Obligations.MismatchGetsUnexpected : Prop :=
  ∀ (s : State) (vs : List Byte) (rest : List Yield), s.target.eng.state = .idle →
    AnswersSend s.cfg.target 1 vs → s.target.eng.port.inbox = byteYields vs ++ rest →
    ∀ (opcode : Byte), (s.target.cd = .wConf ∧ opcode ≠ 0x00#8) ∨
        (s.target.cd = .rConf ∧ opcode ≠ 0x03#8) →
    ∃ t, (∀ i : Instr, i.direction = .h2t → i.wellFormed → i.opcode = opcode →
        exec i s = .next t) ∧
      s.onReservedCommand opcode = t ∧
      t = { s with target := { s.target with cd := .awaitCmd, eng := t.target.eng } } ∧
      t.target.eng.state = .idle ∧ t.target.eng.result = .ok ∧ t.target.eng.port.inbox = rest ∧
      t.target.eng.rxBuf = s.target.eng.rxBuf ∧ t.target.eng.rxLen = s.target.eng.rxLen ∧
      t.target.eng.port.trace = s.target.eng.port.trace ++ xfers
        (sentFrame s.cfg.target (vs.length - (s.cfg.target.sendConfirmCount + 2)) [0x00#8]) vs

/-- 41_dispatch.md rules R148, R156: a confirmation is matched on its byte 0 alone: two commands with
the same opcode do the same in phase 2, whatever their other bytes and lengths. -/
def Obligations.ConfirmationReadsByteZero : Prop :=
  ∀ (s : State) (i i' : Instr), i.direction = .h2t → i'.direction = .h2t →
    i.wellFormed → i'.wellFormed → i.opcode = i'.opcode →
    s.target.cd = .wConf ∨ s.target.cd = .rConf → exec i s = exec i' s

/-- Frame of the commands (41_dispatch.md rules R144-R150, R161, 20_memory.md rule R66), whatever the
channel does: a command that answers a next state leaves the host, the parameters, the other inputs,
the receive registers and `CMD`, `CMD_LEN` as they were; only a WRITE_MEMORY_REGION or
READ_MEMORY_REGION with all its fields, in `DISPATCH`, may change `ADDR`, `CNT`, `J` or memory; and the
CD listens again. -/
def Obligations.CommandFrame : Prop :=
  ∀ (s t : State) (i : Instr), i.direction = .h2t → exec i s = .next t →
    t = { s with target := t.target, mem := t.mem, otherStores := t.otherStores } ∧
    t.target.cmd = s.target.cmd ∧ t.target.cmdLen = s.target.cmdLen ∧
    t.target.eng.rxBuf = s.target.eng.rxBuf ∧ t.target.eng.rxLen = s.target.eng.rxLen ∧
    t.target.eng.draws = s.target.eng.draws ∧
    t.target.eng.state = .idle ∧ t.target.cd.listening = true ∧
    ((∀ addr data, i ≠ .writeMemoryRegion (.full addr data)) →
     (∀ addr n1 trailing, i ≠ .readMemoryRegion (.full addr n1 trailing)) →
      t.mem = s.mem ∧ t.otherStores = s.otherStores ∧ t.target.addr = s.target.addr ∧
      t.target.cnt = s.target.cnt ∧ t.target.j = s.target.j) ∧
    (s.target.cd ≠ .dispatch → t.mem = s.mem ∧ t.otherStores = s.otherStores ∧
      t.target.addr = s.target.addr ∧ t.target.cnt = s.target.cnt ∧ t.target.j = s.target.j)

/-- 40_link_layer.md rule R119: a packet is run only by a peer that has just received one: a command
stops by name with the Responder's LE busy or its CD not listening, a response with the Sender's LE
busy or its XO not in `RECV`; and an instruction no packet carries (30_encoding.md rule R72) faults. -/
def Obligations.NothingRunsUndelivered : Prop :=
  ∀ (s : State) (i : Instr),
    (i.wellFormed = false → exec i s = .fault .noSuchPacket) ∧
    (i.wellFormed → i.direction = .h2t → s.target.eng.state ≠ .idle →
      exec i s = .refused .engineBusy) ∧
    (i.wellFormed → i.direction = .h2t → s.target.eng.state = .idle → s.target.cd ≠ .dispatch →
      s.target.cd ≠ .wConf → s.target.cd ≠ .rConf → exec i s = .refused .commandNotAwaited) ∧
    (i.wellFormed → i.direction = .t2h → s.host.eng.state ≠ .idle →
      exec i s = .refused .engineBusy) ∧
    (i.wellFormed → i.direction = .t2h → s.host.eng.state = .idle → s.host.xo ≠ .recv →
      exec i s = .refused .replyNotAwaited)

/-! ### The responses -/

/-- 42_orchestrator.md rules R181, R185, 60_exceptions.md rule R205: RSP_UNEXPECTED_COMMAND,
RSP_OK_WITH_CHECKSUM and RSP_READ_MEMORY_REGION_DATA, delivered to an XO in `RECV`, end the exchange:
`XO_STATE` is `IDLE` and the reply goes upstream with `TX_CSUM`, byte for byte. The whole next state:
`LE_RESULT` and `XO_ERR` are as before. -/
def Obligations.ResponsesGoUpstream : Prop :=
  ∀ (s : State), s.host.eng.state = .idle → s.host.xo = .recv →
    (∀ up : Response → State,
      (up = fun r => { s with
        host :=
          { s.host with
            xo := .idle
            eng :=
              { s.host.eng with
                port := { s.host.eng.port with trace := s.host.eng.port.trace ++ [.respond r] } } } }) →
      exec .rspUnexpectedCommand s = .next (up (.ok 1 [0x00#8] s.host.txCsum)) ∧
      (∀ c : Word, exec (.rspOkWithChecksum c) s =
        .next (up (.ok 5 (0x01#8 :: leBytes c) s.host.txCsum))) ∧
      (∀ data : List Byte, 1 ≤ data.length → data.length ≤ 255 →
        exec (.rspReadMemoryRegionData data) s =
          .next (up (.ok (data.length + 1) (0x02#8 :: data) s.host.txCsum))))

/-! ### Steps by packet -/

/-- 41_dispatch.md rule R142, 30_encoding.md rule R88: a step by packet of a Responder in `DISPATCH`
runs the instruction the latched packet decodes to. -/
def Obligations.StepRunsDispatchedPacket : Prop :=
  ∀ (s : State) (i : Instr), s.schedule = .byPacket → s.turn = .responder →
    s.targetReset.headD false = false → s.target.eng.state = .idle → s.target.cd = .dispatch →
    decode .h2t s.target.packet = .ok i →
    step s = exec i { s with turn := .sender, targetReset := s.targetReset.tail }

/-- 41_dispatch.md rules R141, R142, R148: a step by packet of a listening Responder, with a frame on
its wire, receives the packet and runs the instruction it decodes to, in `DISPATCH` with `CMD` and
`CMD_LEN` latched if the CD was in `AWAIT_CMD`, in phase 2 otherwise. -/
def Obligations.StepFetchesAndRuns : Prop :=
  ∀ (s : State) (i : Instr) (packet vs : List Byte) (rest : List Yield),
    s.schedule = .byPacket → s.turn = .responder → s.targetReset.headD false = false →
    s.target.eng.state = .idle → s.target.cd.listening = true →
    AnswersReceive s.cfg.target packet vs → s.target.eng.port.inbox = byteYields vs ++ rest →
    decode .h2t packet = .ok i →
    step s = exec i
      { s with
        turn := .sender
        targetReset := s.targetReset.tail
        target :=
          { s.target with
            cd := if s.target.cd = .awaitCmd then .dispatch else s.target.cd
            cmd := if s.target.cd = .awaitCmd then packet.headD 0x00#8 else s.target.cmd
            cmdLen := if s.target.cd = .awaitCmd then packet.length else s.target.cmdLen
            eng := receivePacket s.cfg.target s.target.eng } }

/-- 42_orchestrator.md rules R181, R185: a step by packet of a Sender whose XO waits for the reply, with
the reply's frame on its wire, receives it and runs the response it decodes to. -/
def Obligations.StepReceivesAndRunsReply : Prop :=
  ∀ (s : State) (i : Instr) (reply vs : List Byte) (rest : List Yield),
    s.schedule = .byPacket → s.turn = .sender → s.hostReset.headD false = false →
    s.host.eng.state = .idle → s.host.xo = .settle ∨ s.host.xo = .recv →
    AnswersReceive s.cfg.host reply vs → s.host.eng.port.inbox = byteYields vs ++ rest →
    decode .t2h reply = .ok i →
    step s = exec i
      { s with
        turn := .responder
        hostReset := s.hostReset.tail
        host := { s.host with xo := .recv, eng := receivePacket s.cfg.host s.host.eng } }

/-- 41_dispatch.md rules R141, R150: a packet with a reserved opcode received in `AWAIT_CMD`: a step
that transmits nothing after the packet's own transfers, accesses no memory and leaves the CD in
`AWAIT_CMD`. The silence is the spec's decision D9, which this statement adopts
(notes/assumptions/13.md). -/
def Obligations.StepOnReservedOpcode : Prop :=
  ∀ (s : State) (packet vs : List Byte) (rest : List Yield) (opcode : Byte),
    s.schedule = .byPacket → s.turn = .responder → s.targetReset.headD false = false →
    s.target.eng.state = .idle → s.target.cd = .awaitCmd →
    AnswersReceive s.cfg.target packet vs → s.target.eng.port.inbox = byteYields vs ++ rest →
    packet.head? = some opcode → 4 ≤ opcode.toNat →
    step s = .next
      { s with
        turn := .sender
        targetReset := s.targetReset.tail
        target :=
          { s.target with
            cmd := opcode
            cmdLen := packet.length
            eng := receivePacket s.cfg.target s.target.eng } }

/-- 41_dispatch.md rules R141, R147, 60_exceptions.md rules R207, R208: a ReceivePacket that fails leaves
the CD where it listened, in `AWAIT_CMD` and in phase 2 alike, and touches nothing but the LE; the next
step of the Responder listens again. -/
def Obligations.FailedReceiveKeepsListening : Prop :=
  ∀ (s : State), s.schedule = .byPacket → s.turn = .responder →
    s.targetReset.headD false = false → s.target.eng.state = .idle →
    s.target.cd.listening = true → (receivePacket s.cfg.target s.target.eng).result ≠ .ok →
    step s = .next
      { s with
        turn := .sender
        targetReset := s.targetReset.tail
        target := { s.target with eng := receivePacket s.cfg.target s.target.eng } }

/-- 42_orchestrator.md rules R181, R184, R185, 40_link_layer.md rules R103, R104, 30_encoding.md rule
R74: performExchange over a channel that takes the request and brings a reply: the request's frame goes
out, the reply comes in, and the response upstream is Ok with the reply's length and bytes, whatever its
opcode, and the checksum of the request. The bytes the Sender transmits in the reply's length and
payload transfers are those of 40_link_layer.md rule R108, the spec's decision D7, which this statement
adopts (notes/assumptions/12.md). -/
def Obligations.ExchangeSucceeds : Prop :=
  ∀ (s : State) (b reply vs vr : List Byte) (rs : List (List Byte)) (rest : List Yield),
    s.schedule = .byPacket → s.turn = .sender → s.hostReset.headD false = false →
    s.host.eng.state = .idle → s.host.xo = .idle → s.requests = b :: rs →
    1 ≤ b.length → b.length ≤ 256 → AnswersSend s.cfg.host b.length vs →
    AnswersReceive s.cfg.host reply vr →
    s.host.eng.port.inbox = byteYields vs ++ (byteYields vr ++ rest) →
    ∃ t, step s = .next t ∧
      t = { s with
            turn := .responder
            hostReset := s.hostReset.tail
            requests := rs
            host :=
              { s.host with
                xo := .idle
                txCsum := csum s.cfg.host.seed b
                eng := t.host.eng } } ∧
      t.host.eng.state = .idle ∧ t.host.eng.result = .ok ∧ t.host.eng.rxPacket = reply ∧
      t.host.eng.txPacket = b ∧ t.host.eng.port.inbox = rest ∧
      t.host.eng.port.trace = s.host.eng.port.trace ++
        xfers (sentFrame s.cfg.host
          (vs.length - (s.cfg.host.sendConfirmCount + 1 + b.length)) b) vs ++
        xfers (echoedFrame s.cfg.host
          (vr.length - (s.cfg.host.recvEchoCount + 1 + reply.length)) reply.length) vr ++
        [.respond (.ok reply.length reply (csum s.cfg.host.seed b))]

/-- 42_orchestrator.md rule R181, 60_exceptions.md rules R204(a), R209: a request of length 0 or more
than 256 is answered Err(INVALID_LENGTH); nothing is transmitted and no ReceivePacket follows. -/
def Obligations.ExchangeRejectsLength : Prop :=
  ∀ (s : State) (b : List Byte) (rs : List (List Byte)),
    s.schedule = .byPacket → s.turn = .sender → s.hostReset.headD false = false →
    s.host.eng.state = .idle → s.host.xo = .idle → s.requests = b :: rs →
    s.cfg.inRange → b.length = 0 ∨ 256 < b.length →
    step s = .next
      { s with
        turn := .responder
        hostReset := s.hostReset.tail
        requests := rs
        host :=
          { s.host with
            xo := .idle
            xoErr := .invalidLength
            eng :=
              { s.host.eng with
                txLen := b.length
                result := .err .invalidLength
                port :=
                  { s.host.eng.port with
                    trace := s.host.eng.port.trace ++ [.respond (.err .invalidLength)] } } } }

/-- 60_exceptions.md rule R209 (42_orchestrator.md rules R181, R183, 60_exceptions.md rule R223):
whatever the channel does, an exchange ends in `IDLE` with exactly one response, the last thing that
happens; an Err carries the error kind that `XO_ERR` and `LE_RESULT` hold; an error of the SendPacket
ends the exchange at once with that error, an error of the ReceivePacket with that one. -/
def Obligations.ExchangeAlwaysResponds : Prop :=
  ∀ (s : State) (b : List Byte) (rs : List (List Byte)),
    s.schedule = .byPacket → s.turn = .sender → s.hostReset.headD false = false →
    s.host.eng.state = .idle → s.host.xo = .idle → s.requests = b :: rs →
    ∃ t r evs, step s = .next t ∧ t.host.xo = .idle ∧ t.host.eng.state = .idle ∧ t.requests = rs ∧
      t.target = s.target ∧ t.mem = s.mem ∧
      t.host.eng.port.trace = s.host.eng.port.trace ++ evs ++ [.respond r] ∧
      (∀ ev ∈ evs, ev.isByteXfer ∨ ev.isTimeout) ∧
      (∀ k, r = .err k → t.host.xoErr = k ∧ t.host.eng.result = .err k) ∧
      (∀ k e, e = sendPacket s.cfg.host (s.host.begin s.cfg.host b).eng → e.result = .err k →
        r = .err k ∧ t.host.eng = e.log (.respond (.err k))) ∧
      (∀ k e e', e = sendPacket s.cfg.host (s.host.begin s.cfg.host b).eng → e.result = .ok →
        e' = receivePacket s.cfg.host e → e'.result = .err k →
        r = .err k ∧ t.host.eng = e'.log (.respond (.err k))) ∧
      (∀ n bytes c, r = .ok n bytes c →
        t.host.eng.result = .ok ∧ n = bytes.length ∧ bytes = t.host.eng.rxPacket ∧ c = t.host.txCsum)

/-- 70_reset_and_hazards.md rule R230, 42_orchestrator.md rule R181: a Sender in `IDLE` with no request
waiting makes no transfer and changes nothing. -/
def Obligations.IdleSenderWaits : Prop :=
  ∀ (s : State), s.schedule = .byPacket ∨ s.schedule = .byPort → s.turn = .sender →
    s.hostReset.headD false = false → s.host.eng.state = .idle → s.host.xo = .idle →
    s.requests = [] →
    step s = .next { s with turn := .responder, hostReset := s.hostReset.tail }

/-! ### Steps by port -/

/-- 41_dispatch.md rules R141, R142, R144, R147, R148, R150-R154, R160: the transitions of the CD that are
no copy. With its LE idle: it starts a ReceivePacket; it decodes `CMD` alone; it checks `CMD_LEN` and
latches the fields; it starts a SendPacket, which for a length outside 1..256 ends at once with
INVALID_LENGTH. With its LE busy: one transfer, and where that ends the operation, the "Recv" and "Send"
rows. That an unknown opcode leads silently to `AWAIT_CMD` is 41_dispatch.md rule R150, the spec's
decision D9, which this statement adopts (notes/assumptions/13.md). -/
def Obligations.CdLocalTransitions : Prop :=
  ∀ (s : State),
    (s.target.cd.listening = true → s.targetLocal =
      { s with target := { s.target with eng := startReceive s.cfg.target s.target.eng } }) ∧
    (s.target.cd = .dispatch → s.targetLocal =
      { s with
        target :=
          if s.target.cmd = 0x00#8 then { s.target.makeAck with cd := .csAck }
          else if s.target.cmd = 0x01#8 then { s.target.makeAck with cd := .wAck }
          else if s.target.cmd = 0x02#8 then { s.target.makeAck with cd := .rAck }
          else { s.target with cd := .awaitCmd } }) ∧
    (s.target.cd = .wDecode → s.targetLocal =
      { s with
        target :=
          if s.target.cmdLen < 5 then { s.target with cd := .awaitCmd }
          else
            { s.target with
              addr := s.target.eng.rxAddr
              cnt := s.target.cmdLen - 5
              j := 0
              cd := if s.target.cmdLen = 5 then .wConf else .wCopy } }) ∧
    (s.target.cd = .rDecode → s.targetLocal =
      { s with
        target :=
          if s.target.cmdLen < 6 then { s.target with cd := .awaitCmd }
          else
            { s.target with
              addr := s.target.eng.rxAddr
              cnt := (bufAt s.target.eng.rxBuf 5).toNat + 1
              j := 0
              cd := .rCopy
              eng := { s.target.eng with txBuf := bufPut s.target.eng.txBuf 0 0x02#8 } } }) ∧
    (s.target.cd.replying → s.target.eng.state = .idle → s.targetLocal =
      { s with
        target :=
          if s.target.eng.txLen < 1 ∨ s.cfg.target.pktMax < s.target.eng.txLen then
            { s.target with
              cd := .awaitCmd
              eng := { s.target.eng with result := .err .invalidLength } }
          else
            { s.target with
              eng :=
                { s.target.eng with acc := s.cfg.target.seed, hsCnt := 0, state := .sSearch } } }) ∧
    (s.target.eng.state ≠ .idle → ∀ r : Responder,
      r = { s.target with
            eng := s.target.eng.consume.onYield s.cfg.target s.target.eng.answer } →
      (r.eng.state ≠ .idle → s.targetTick = { s with target := r }) ∧
      (r.eng.state = .idle →
        (r.cd = .awaitCmd → r.eng.result = .ok → s.targetTick =
          { s with
            target :=
              { r with cmd := bufAt r.eng.rxBuf 0, cmdLen := r.eng.rxLen, cd := .dispatch } }) ∧
        (r.cd.listening → r.eng.result ≠ .ok → s.targetTick = { s with target := r }) ∧
        (r.cd = .wConf → r.eng.result = .ok → s.targetTick =
          { s with
            target :=
              if bufAt r.eng.rxBuf 0 = 0x00#8 then { r.makeAck with cd := .wReply }
              else { r.makeUnexpected with cd := .wReply } }) ∧
        (r.cd = .rConf → r.eng.result = .ok → s.targetTick =
          { s with
            target :=
              if bufAt r.eng.rxBuf 0 = 0x03#8 then { r with cd := .rReply }
              else { r.makeUnexpected with cd := .rReply } }) ∧
        (r.cd = .csAck ∨ r.cd = .wReply ∨ r.cd = .rReply → s.targetTick =
          { s with target := { r with cd := .awaitCmd } }) ∧
        (r.cd = .wAck → r.eng.result = .ok → s.targetTick =
          { s with target := { r with cd := .wDecode } }) ∧
        (r.cd = .rAck → r.eng.result = .ok → s.targetTick =
          { s with target := { r with cd := .rDecode } }) ∧
        (r.cd = .wAck ∨ r.cd = .rAck → r.eng.result ≠ .ok → s.targetTick =
          { s with target := { r with cd := .awaitCmd } })))

/-- 41_dispatch.md rules R160, R161, 20_memory.md rules R51, R56, R60(c): target memory is accessed in
`W_COPY` and `R_COPY` alone, with the LE idle, one byte a transition: `W_COPY` stores `RX_BUF[5 + J]` at
`ADDR + J`, `R_COPY` reads it into `TX_BUF[1 + J]`; any other transition of the Responder leaves memory
and makes no access. -/
def Obligations.MemoryOnlyInCopyStates : Prop :=
  ∀ (s : State),
    (s.target.eng.state ≠ .idle ∨ (s.target.cd ≠ .wCopy ∧ s.target.cd ≠ .rCopy) →
      s.targetTick.mem = s.mem ∧ s.targetTick.otherStores = s.otherStores ∧
      ∀ ev ∈ newEvents s.target.eng.port.trace s.targetTick.target.eng.port.trace,
        ev.isAccess = false) ∧
    (s.target.eng.state = .idle → s.target.cd = .wCopy → s.target.j < s.target.cnt →
      s.targetTick =
        { s with
          mem := (s.mem.storeAll (s.otherStores.headD [])).write
            (addrOf s.cfg.target.addrBits s.target.addr s.target.j).toNat
            (bufAt s.target.eng.rxBuf (5 + s.target.j))
          otherStores := s.otherStores.tail
          target :=
            { s.target with
              j := s.target.j + 1
              cd := if s.target.j + 1 = s.target.cnt then .wConf else .wCopy
              eng := s.target.eng.log (.memWrite (addrOf s.cfg.target.addrBits s.target.addr s.target.j)
                (bufAt s.target.eng.rxBuf (5 + s.target.j))) } }) ∧
    (s.target.eng.state = .idle → s.target.cd = .rCopy → s.target.j < s.target.cnt →
      ∀ v, v = (s.mem.storeAll (s.otherStores.headD [])).read
          (addrOf s.cfg.target.addrBits s.target.addr s.target.j).toNat →
      s.targetTick =
        { s with
          mem := s.mem.storeAll (s.otherStores.headD [])
          otherStores := s.otherStores.tail
          target :=
            { s.target with
              j := s.target.j + 1
              cd := if s.target.j + 1 = s.target.cnt then .rConf else .rCopy
              eng :=
                { s.target.eng.log
                    (.memRead (addrOf s.cfg.target.addrBits s.target.addr s.target.j) v) with
                  txBuf := bufPut s.target.eng.txBuf (1 + s.target.j) v
                  txLen := if s.target.j + 1 = s.target.cnt then s.target.cnt + 1
                    else s.target.eng.txLen } } })

/-- 41_dispatch.md rule R160, 40_link_layer.md rule R112: from every state that meets the invariant, the
Responder's step by packet ends where some number of its transitions one port transaction at a time
ends: the transition table does what the procedures of rules R144-R150 say. -/
def Obligations.CdTableAgreesWithProcedures : Prop :=
  ∀ (s t : State), s.inv → s.targetPacket = .next t → ∃ n, State.targetTicks n s = t

/-- 42_orchestrator.md rule R181, 40_link_layer.md rule R112: the same for the Sender. -/
def Obligations.XoTableAgreesWithProcedure : Prop :=
  ∀ (s t : State), s.inv → s.hostPacket = .next t → ∃ n, State.hostTicks n s = t

/-! ### The whole machine -/

/-- 10_state.md rules R20, R33, 60_exceptions.md rule R217: the peers share no state: a step of the
Responder's turn changes nothing of the Sender's, a step of the Sender's turn nothing of the
Responder's, target memory among it. -/
def Obligations.PeersShareNothing : Prop :=
  ∀ (s t : State), s.schedule ≠ .linked → step s = .next t →
    (s.turn = .responder → t.host = s.host ∧ t.requests = s.requests ∧ t.hostReset = s.hostReset) ∧
    (s.turn = .sender → t.target = s.target ∧ t.mem = s.mem ∧ t.otherStores = s.otherStores ∧
      t.targetReset = s.targetReset)

/-- 10_state.md rule R35, 00_scope.md rule R6: no step writes a configuration parameter. -/
def Obligations.ParametersNeverChange : Prop :=
  ∀ (s t : State), step s = .next t → t.cfg = s.cfg

/-- 10_state.md rules R24, R26, R27, R29, R39, 41_dispatch.md rule R160, 70_reset_and_hazards.md rule
R241: every step keeps the invariant, whatever the schedule: registers in range, an LE in an operation
only where its FSM waits for it, the latched packet the delivered one, memory in canonical form, and no free
value drawn by both peers (notes/assumptions/6.md). -/
def Obligations.StepKeepsInvariant : Prop :=
  ∀ (s t : State), s.inv → step s = .next t → t.inv

/-- 10_state.md rule R36: the machine meets the invariant at reset; the values of the registers the spec
leaves unspecified are the model's choice (notes/assumptions/1.md). -/
def Obligations.ResetMeetsInvariant : Prop := State.reset.inv = true

/-- 41_dispatch.md rule R140, 60_exceptions.md rules R211, R223, 20_memory.md rule R59: the machine never
stops: from every state that meets the invariant a step answers a next state, of two linked peers if
their parameters fit (60_exceptions.md rule R222). That no unknown opcode stops it is 41_dispatch.md
rule R150, the spec's decision D9, which this statement adopts (notes/assumptions/13.md). -/
def Obligations.MachineNeverStops : Prop :=
  ∀ (s : State), s.inv → (s.schedule = .linked → s.cfg.compatible) → ∃ t, step s = .next t

/-- 60_exceptions.md rule R222, 93_implementation_defined.md item U20: two linked peers whose parameters
break 00_scope.md rule R7 are refused. -/
def Obligations.LockstepNeedsCompatiblePeers : Prop :=
  ∀ (s : State), s.schedule = .linked → s.cfg.compatible = false →
    step s = .refused .incompatiblePeers

/-- 10_state.md rule R36, 70_reset_and_hazards.md rules R230, R231, R232, R235: a step at which a peer's
reset input is asserted makes no port transaction of that peer; its FSM states are their reset values,
and target memory and the parameters keep theirs. By packet and by port the other peer keeps its state;
of two linked peers the other goes on: on the lockstep channel its current LE operation ends with
BYTE_TIMEOUT, and with its LE idle it makes its own transition. Rule R231 says that the operation ends
with a link error; that it ends in the same transition, with BYTE_TIMEOUT, and that the other peer moves
in it at all, is the model's choice (notes/assumptions/9.md, notes/assumptions/11.md). -/
def Obligations.ResetStep : Prop :=
  ∀ (s : State),
    (s.schedule ≠ .linked → s.turn = .responder → s.targetReset.headD false = true →
      ∃ t, step s = .next t ∧ t.target.cd = .awaitCmd ∧ t.target.eng.state = .idle ∧
        t.target.eng.port = s.target.eng.port ∧ t.mem = s.mem ∧ t.cfg = s.cfg ∧ t.host = s.host) ∧
    (s.schedule ≠ .linked → s.turn = .sender → s.hostReset.headD false = true →
      ∃ t, step s = .next t ∧ t.host.xo = .idle ∧ t.host.eng.state = .idle ∧
        t.host.eng.port = s.host.eng.port ∧ t.mem = s.mem ∧ t.cfg = s.cfg ∧ t.target = s.target) ∧
    (s.schedule = .linked → s.cfg.compatible → s.targetReset.headD false = true →
      ∃ t, step s = .next t ∧ t.target.cd = .awaitCmd ∧ t.target.eng.state = .idle ∧
        t.target.eng.port = s.target.eng.port ∧ t.mem = s.mem ∧ t.cfg = s.cfg ∧
        (s.hostReset.headD false = false → s.cfg.channel = .lockstep →
          (s.host.eng.state = .idle → t.host = s.hostLocal.host) ∧
          (s.host.eng.state ≠ .idle → t.host = (s.hostYield .timeout).host ∧
            t.host.eng.state = .idle ∧ t.host.eng.result = .err .byteTimeout))) ∧
    (s.schedule = .linked → s.cfg.compatible → s.hostReset.headD false = true →
      ∃ t, step s = .next t ∧ t.host.xo = .idle ∧ t.host.eng.state = .idle ∧
        t.host.eng.port = s.host.eng.port ∧ t.cfg = s.cfg ∧
        (s.targetReset.headD false = false → s.cfg.channel = .lockstep →
          (s.target.eng.state = .idle →
            t.target = s.targetLocal.target ∧ t.mem = s.targetLocal.mem) ∧
          (s.target.eng.state ≠ .idle → t.target = (s.targetYield .timeout).target ∧
            t.mem = s.mem ∧ t.target.eng.state = .idle ∧
            t.target.eng.result = .err .byteTimeout)))

/-- 10_state.md rule R36: the three FSM states at reset, the values the spec gives. -/
def Obligations.ResetFsmStates : Prop :=
  State.reset.target.cd = .awaitCmd ∧ State.reset.target.eng.state = .idle ∧
  State.reset.host.xo = .idle ∧ State.reset.host.eng.state = .idle

/-- 60_exceptions.md rule R219: on a channel that pairs transfers, such as the lockstep channel, two
outstanding `Xfer`s pair, whatever the pace: each side yields the byte the other transmitted, unless the
channel's draw corrupts it in that direction or drops the pair, and the draw is used up. With one `Xfer`
outstanding, the other peer moves, or, where the pace gives the turn to the peer with the `Xfer` or the
other peer has no move, the `Xfer` finds no partner: it yields `Timeout` on the lockstep channel, a byte
of an idle line on another. Which comes first where the pace gives no turn is the model's choice
(notes/assumptions/9.md), and so is that an LE in an operation always has an `Xfer` outstanding. That a
dropped pair times out on both sides is 95_test_vectors.md section 0. -/
def Obligations.LockstepPairsTransfers : Prop :=
  loneYield none = .timeout ∧
  ∀ (s : State) (loneTarget loneHost : Option Byte), s.cfg.channel = .paired loneTarget loneHost →
    (s.target.eng.state ≠ .idle → s.host.eng.state ≠ .idle →
      ∀ (a b : Byte), a = s.target.eng.txByte s.cfg.target → b = s.host.eng.txByte s.cfg.host →
      ∀ (yields : Yield → Yield → List Noise → State),
      (yields = fun yt yh noise => { s with
        noise := noise
        pace := s.pace.tail
        target := (s.target.onEng (Engine.onYield s.cfg.target yt)).reactIfIdle
        host := (s.host.onEng (Engine.onYield s.cfg.host yh)).reactIfIdle }) →
      (s.noise = [] → s.linkMove = yields (.byte b) (.byte a) []) ∧
      (∀ rest, s.noise = .clean :: rest → s.linkMove = yields (.byte b) (.byte a) rest) ∧
      (∀ rest, s.noise = .drop :: rest → s.linkMove = yields .timeout .timeout rest) ∧
      (∀ v w rest, s.noise = .corrupt v w :: rest →
        s.linkMove = yields (.byte (v.getD b)) (.byte (w.getD a)) rest)) ∧
    ∀ s', s' = { s with pace := s.pace.tail } →
      (s.target.eng.state ≠ .idle → s.host.eng.state = .idle →
        (s.pace.headD none = some .responder ∨
            (s.pace.headD none = none ∧ s.host.xo = .idle ∧ s.requests = []) →
          s.linkMove = s'.targetYield (loneYield loneTarget)) ∧
        (s.pace.headD none = some .sender ∨
            (s.pace.headD none = none ∧ (s.host.xo ≠ .idle ∨ s.requests ≠ [])) →
          s.linkMove = s'.hostLocal)) ∧
      (s.target.eng.state = .idle → s.host.eng.state ≠ .idle →
        (s.pace.headD none = some .sender → s.linkMove = s'.hostYield (loneYield loneHost)) ∧
        (s.pace.headD none ≠ some .sender → s.linkMove = s'.targetLocal)) ∧
      (s.target.eng.state = .idle → s.host.eng.state = .idle →
        (s.pace.headD none = some .sender → s.linkMove = s'.hostLocal) ∧
        (s.pace.headD none ≠ some .sender → s.linkMove = s'.targetLocal))
end

