-- ==== Sys2Proof/Laws/State.lean ====
section
/-! SUPPORT. What each named update of the state leaves in each field, one lemma a field, so that no
proof unfolds an update. -/

namespace Sys2Proof.Machine

variable (s : State) (r : Responder) (h : Sender) (e : Engine)


/-! `State.onTarget` -/

@[simp] theorem State.onTarget_cfg (f : Responder → Responder) :
    (s.onTarget f).cfg = s.cfg := rfl
@[simp] theorem State.onTarget_target (f : Responder → Responder) :
    (s.onTarget f).target = f s.target := rfl
@[simp] theorem State.onTarget_host (f : Responder → Responder) :
    (s.onTarget f).host = s.host := rfl
@[simp] theorem State.onTarget_mem (f : Responder → Responder) :
    (s.onTarget f).mem = s.mem := rfl
@[simp] theorem State.onTarget_otherStores (f : Responder → Responder) :
    (s.onTarget f).otherStores = s.otherStores := rfl
@[simp] theorem State.onTarget_requests (f : Responder → Responder) :
    (s.onTarget f).requests = s.requests := rfl
@[simp] theorem State.onTarget_noise (f : Responder → Responder) :
    (s.onTarget f).noise = s.noise := rfl
@[simp] theorem State.onTarget_pace (f : Responder → Responder) :
    (s.onTarget f).pace = s.pace := rfl
@[simp] theorem State.onTarget_targetReset (f : Responder → Responder) :
    (s.onTarget f).targetReset = s.targetReset := rfl
@[simp] theorem State.onTarget_hostReset (f : Responder → Responder) :
    (s.onTarget f).hostReset = s.hostReset := rfl
@[simp] theorem State.onTarget_schedule (f : Responder → Responder) :
    (s.onTarget f).schedule = s.schedule := rfl
@[simp] theorem State.onTarget_turn (f : Responder → Responder) :
    (s.onTarget f).turn = s.turn := rfl

/-! `State.onHost` -/

@[simp] theorem State.onHost_cfg (f : Sender → Sender) :
    (s.onHost f).cfg = s.cfg := rfl
@[simp] theorem State.onHost_target (f : Sender → Sender) :
    (s.onHost f).target = s.target := rfl
@[simp] theorem State.onHost_host (f : Sender → Sender) :
    (s.onHost f).host = f s.host := rfl
@[simp] theorem State.onHost_mem (f : Sender → Sender) :
    (s.onHost f).mem = s.mem := rfl
@[simp] theorem State.onHost_otherStores (f : Sender → Sender) :
    (s.onHost f).otherStores = s.otherStores := rfl
@[simp] theorem State.onHost_requests (f : Sender → Sender) :
    (s.onHost f).requests = s.requests := rfl
@[simp] theorem State.onHost_noise (f : Sender → Sender) :
    (s.onHost f).noise = s.noise := rfl
@[simp] theorem State.onHost_pace (f : Sender → Sender) :
    (s.onHost f).pace = s.pace := rfl
@[simp] theorem State.onHost_targetReset (f : Sender → Sender) :
    (s.onHost f).targetReset = s.targetReset := rfl
@[simp] theorem State.onHost_hostReset (f : Sender → Sender) :
    (s.onHost f).hostReset = s.hostReset := rfl
@[simp] theorem State.onHost_schedule (f : Sender → Sender) :
    (s.onHost f).schedule = s.schedule := rfl
@[simp] theorem State.onHost_turn (f : Sender → Sender) :
    (s.onHost f).turn = s.turn := rfl

/-! `State.gotoCd` -/

@[simp] theorem State.gotoCd_cfg (c : CdState) :
    (s.gotoCd c).cfg = s.cfg := rfl
@[simp] theorem State.gotoCd_target (c : CdState) :
    (s.gotoCd c).target = s.target.goto c := rfl
@[simp] theorem State.gotoCd_host (c : CdState) :
    (s.gotoCd c).host = s.host := rfl
@[simp] theorem State.gotoCd_mem (c : CdState) :
    (s.gotoCd c).mem = s.mem := rfl
@[simp] theorem State.gotoCd_otherStores (c : CdState) :
    (s.gotoCd c).otherStores = s.otherStores := rfl
@[simp] theorem State.gotoCd_requests (c : CdState) :
    (s.gotoCd c).requests = s.requests := rfl
@[simp] theorem State.gotoCd_noise (c : CdState) :
    (s.gotoCd c).noise = s.noise := rfl
@[simp] theorem State.gotoCd_pace (c : CdState) :
    (s.gotoCd c).pace = s.pace := rfl
@[simp] theorem State.gotoCd_targetReset (c : CdState) :
    (s.gotoCd c).targetReset = s.targetReset := rfl
@[simp] theorem State.gotoCd_hostReset (c : CdState) :
    (s.gotoCd c).hostReset = s.hostReset := rfl
@[simp] theorem State.gotoCd_schedule (c : CdState) :
    (s.gotoCd c).schedule = s.schedule := rfl
@[simp] theorem State.gotoCd_turn (c : CdState) :
    (s.gotoCd c).turn = s.turn := rfl

/-! `State.sendFromTarget` -/

@[simp] theorem State.sendFromTarget_cfg :
    (s.sendFromTarget).cfg = s.cfg := rfl
@[simp] theorem State.sendFromTarget_target :
    (s.sendFromTarget).target = s.target.onEng (sendPacket s.cfg.target) := rfl
@[simp] theorem State.sendFromTarget_host :
    (s.sendFromTarget).host = s.host := rfl
@[simp] theorem State.sendFromTarget_mem :
    (s.sendFromTarget).mem = s.mem := rfl
@[simp] theorem State.sendFromTarget_otherStores :
    (s.sendFromTarget).otherStores = s.otherStores := rfl
@[simp] theorem State.sendFromTarget_requests :
    (s.sendFromTarget).requests = s.requests := rfl
@[simp] theorem State.sendFromTarget_noise :
    (s.sendFromTarget).noise = s.noise := rfl
@[simp] theorem State.sendFromTarget_pace :
    (s.sendFromTarget).pace = s.pace := rfl
@[simp] theorem State.sendFromTarget_targetReset :
    (s.sendFromTarget).targetReset = s.targetReset := rfl
@[simp] theorem State.sendFromTarget_hostReset :
    (s.sendFromTarget).hostReset = s.hostReset := rfl
@[simp] theorem State.sendFromTarget_schedule :
    (s.sendFromTarget).schedule = s.schedule := rfl
@[simp] theorem State.sendFromTarget_turn :
    (s.sendFromTarget).turn = s.turn := rfl

/-! `State.memWrite` -/

@[simp] theorem State.memWrite_cfg (a : Word) (v : Byte) :
    (s.memWrite a v).cfg = s.cfg := rfl
@[simp] theorem State.memWrite_target (a : Word) (v : Byte) :
    (s.memWrite a v).target = s.target.onEng (Engine.log (.memWrite a v)) := rfl
@[simp] theorem State.memWrite_host (a : Word) (v : Byte) :
    (s.memWrite a v).host = s.host := rfl
@[simp] theorem State.memWrite_mem (a : Word) (v : Byte) :
    (s.memWrite a v).mem = s.memNow.write a.toNat v := rfl
@[simp] theorem State.memWrite_otherStores (a : Word) (v : Byte) :
    (s.memWrite a v).otherStores = s.otherStores.tail := rfl
@[simp] theorem State.memWrite_requests (a : Word) (v : Byte) :
    (s.memWrite a v).requests = s.requests := rfl
@[simp] theorem State.memWrite_noise (a : Word) (v : Byte) :
    (s.memWrite a v).noise = s.noise := rfl
@[simp] theorem State.memWrite_pace (a : Word) (v : Byte) :
    (s.memWrite a v).pace = s.pace := rfl
@[simp] theorem State.memWrite_targetReset (a : Word) (v : Byte) :
    (s.memWrite a v).targetReset = s.targetReset := rfl
@[simp] theorem State.memWrite_hostReset (a : Word) (v : Byte) :
    (s.memWrite a v).hostReset = s.hostReset := rfl
@[simp] theorem State.memWrite_schedule (a : Word) (v : Byte) :
    (s.memWrite a v).schedule = s.schedule := rfl
@[simp] theorem State.memWrite_turn (a : Word) (v : Byte) :
    (s.memWrite a v).turn = s.turn := rfl

/-! `State.memRead` -/

@[simp] theorem State.memRead_cfg (a : Word) :
    (s.memRead a).cfg = s.cfg := rfl
@[simp] theorem State.memRead_target (a : Word) :
    (s.memRead a).target = s.target.onEng (Engine.log (.memRead a (s.memByte a))) := rfl
@[simp] theorem State.memRead_host (a : Word) :
    (s.memRead a).host = s.host := rfl
@[simp] theorem State.memRead_mem (a : Word) :
    (s.memRead a).mem = s.memNow := rfl
@[simp] theorem State.memRead_otherStores (a : Word) :
    (s.memRead a).otherStores = s.otherStores.tail := rfl
@[simp] theorem State.memRead_requests (a : Word) :
    (s.memRead a).requests = s.requests := rfl
@[simp] theorem State.memRead_noise (a : Word) :
    (s.memRead a).noise = s.noise := rfl
@[simp] theorem State.memRead_pace (a : Word) :
    (s.memRead a).pace = s.pace := rfl
@[simp] theorem State.memRead_targetReset (a : Word) :
    (s.memRead a).targetReset = s.targetReset := rfl
@[simp] theorem State.memRead_hostReset (a : Word) :
    (s.memRead a).hostReset = s.hostReset := rfl
@[simp] theorem State.memRead_schedule (a : Word) :
    (s.memRead a).schedule = s.schedule := rfl
@[simp] theorem State.memRead_turn (a : Word) :
    (s.memRead a).turn = s.turn := rfl

/-! `Responder.onEng` -/

@[simp] theorem Responder.onEng_eng (f : Engine → Engine) :
    (r.onEng f).eng = f r.eng := rfl
@[simp] theorem Responder.onEng_cd (f : Engine → Engine) :
    (r.onEng f).cd = r.cd := rfl
@[simp] theorem Responder.onEng_cmd (f : Engine → Engine) :
    (r.onEng f).cmd = r.cmd := rfl
@[simp] theorem Responder.onEng_cmdLen (f : Engine → Engine) :
    (r.onEng f).cmdLen = r.cmdLen := rfl
@[simp] theorem Responder.onEng_addr (f : Engine → Engine) :
    (r.onEng f).addr = r.addr := rfl
@[simp] theorem Responder.onEng_cnt (f : Engine → Engine) :
    (r.onEng f).cnt = r.cnt := rfl
@[simp] theorem Responder.onEng_j (f : Engine → Engine) :
    (r.onEng f).j = r.j := rfl

/-! `Responder.goto` -/

@[simp] theorem Responder.goto_eng (c : CdState) :
    (r.goto c).eng = r.eng := rfl
@[simp] theorem Responder.goto_cd (c : CdState) :
    (r.goto c).cd = c := rfl
@[simp] theorem Responder.goto_cmd (c : CdState) :
    (r.goto c).cmd = r.cmd := rfl
@[simp] theorem Responder.goto_cmdLen (c : CdState) :
    (r.goto c).cmdLen = r.cmdLen := rfl
@[simp] theorem Responder.goto_addr (c : CdState) :
    (r.goto c).addr = r.addr := rfl
@[simp] theorem Responder.goto_cnt (c : CdState) :
    (r.goto c).cnt = r.cnt := rfl
@[simp] theorem Responder.goto_j (c : CdState) :
    (r.goto c).j = r.j := rfl

/-! `Responder.latch` -/

@[simp] theorem Responder.latch_eng :
    (r.latch).eng = r.eng := rfl
@[simp] theorem Responder.latch_cd :
    (r.latch).cd = .dispatch := rfl
@[simp] theorem Responder.latch_cmd :
    (r.latch).cmd = bufAt r.eng.rxBuf 0 := rfl
@[simp] theorem Responder.latch_cmdLen :
    (r.latch).cmdLen = r.eng.rxLen := rfl
@[simp] theorem Responder.latch_addr :
    (r.latch).addr = r.addr := rfl
@[simp] theorem Responder.latch_cnt :
    (r.latch).cnt = r.cnt := rfl
@[simp] theorem Responder.latch_j :
    (r.latch).j = r.j := rfl

/-! `Responder.makeAck` -/

@[simp] theorem Responder.makeAck_eng :
    (r.makeAck).eng = r.eng.stage (0x01#8 :: leBytes r.eng.acc) := rfl
@[simp] theorem Responder.makeAck_cd :
    (r.makeAck).cd = r.cd := rfl
@[simp] theorem Responder.makeAck_cmd :
    (r.makeAck).cmd = r.cmd := rfl
@[simp] theorem Responder.makeAck_cmdLen :
    (r.makeAck).cmdLen = r.cmdLen := rfl
@[simp] theorem Responder.makeAck_addr :
    (r.makeAck).addr = r.addr := rfl
@[simp] theorem Responder.makeAck_cnt :
    (r.makeAck).cnt = r.cnt := rfl
@[simp] theorem Responder.makeAck_j :
    (r.makeAck).j = r.j := rfl

/-! `Responder.makeUnexpected` -/

@[simp] theorem Responder.makeUnexpected_eng :
    (r.makeUnexpected).eng = r.eng.stage [0x00#8] := rfl
@[simp] theorem Responder.makeUnexpected_cd :
    (r.makeUnexpected).cd = r.cd := rfl
@[simp] theorem Responder.makeUnexpected_cmd :
    (r.makeUnexpected).cmd = r.cmd := rfl
@[simp] theorem Responder.makeUnexpected_cmdLen :
    (r.makeUnexpected).cmdLen = r.cmdLen := rfl
@[simp] theorem Responder.makeUnexpected_addr :
    (r.makeUnexpected).addr = r.addr := rfl
@[simp] theorem Responder.makeUnexpected_cnt :
    (r.makeUnexpected).cnt = r.cnt := rfl
@[simp] theorem Responder.makeUnexpected_j :
    (r.makeUnexpected).j = r.j := rfl

/-! `Sender.onEng` -/

@[simp] theorem Sender.onEng_eng (f : Engine → Engine) :
    (h.onEng f).eng = f h.eng := rfl
@[simp] theorem Sender.onEng_xo (f : Engine → Engine) :
    (h.onEng f).xo = h.xo := rfl
@[simp] theorem Sender.onEng_txCsum (f : Engine → Engine) :
    (h.onEng f).txCsum = h.txCsum := rfl
@[simp] theorem Sender.onEng_xoErr (f : Engine → Engine) :
    (h.onEng f).xoErr = h.xoErr := rfl

/-! `Sender.goto` -/

@[simp] theorem Sender.goto_eng (x : XoState) :
    (h.goto x).eng = h.eng := rfl
@[simp] theorem Sender.goto_xo (x : XoState) :
    (h.goto x).xo = x := rfl
@[simp] theorem Sender.goto_txCsum (x : XoState) :
    (h.goto x).txCsum = h.txCsum := rfl
@[simp] theorem Sender.goto_xoErr (x : XoState) :
    (h.goto x).xoErr = h.xoErr := rfl

/-! `Sender.respondOk` -/

@[simp] theorem Sender.respondOk_eng (bs : List Byte) :
    (h.respondOk bs).eng = h.eng.log (.respond (.ok bs.length bs h.txCsum)) := rfl
@[simp] theorem Sender.respondOk_xo (bs : List Byte) :
    (h.respondOk bs).xo = .idle := rfl
@[simp] theorem Sender.respondOk_txCsum (bs : List Byte) :
    (h.respondOk bs).txCsum = h.txCsum := rfl
@[simp] theorem Sender.respondOk_xoErr (bs : List Byte) :
    (h.respondOk bs).xoErr = h.xoErr := rfl

/-! `Sender.respondErr` -/

@[simp] theorem Sender.respondErr_eng (k : ErrKind) :
    (h.respondErr k).eng = h.eng.log (.respond (.err k)) := rfl
@[simp] theorem Sender.respondErr_xo (k : ErrKind) :
    (h.respondErr k).xo = .idle := rfl
@[simp] theorem Sender.respondErr_txCsum (k : ErrKind) :
    (h.respondErr k).txCsum = h.txCsum := rfl
@[simp] theorem Sender.respondErr_xoErr (k : ErrKind) :
    (h.respondErr k).xoErr = k := rfl

/-! `Engine.stage` -/

@[simp] theorem Engine.stage_state (bs : List Byte) :
    (e.stage bs).state = e.state := rfl
@[simp] theorem Engine.stage_acc (bs : List Byte) :
    (e.stage bs).acc = e.acc := rfl
@[simp] theorem Engine.stage_rxBuf (bs : List Byte) :
    (e.stage bs).rxBuf = e.rxBuf := rfl
@[simp] theorem Engine.stage_rxLen (bs : List Byte) :
    (e.stage bs).rxLen = e.rxLen := rfl
@[simp] theorem Engine.stage_txBuf (bs : List Byte) :
    (e.stage bs).txBuf = bufPutAll e.txBuf 0 bs := rfl
@[simp] theorem Engine.stage_txLen (bs : List Byte) :
    (e.stage bs).txLen = bs.length := rfl
@[simp] theorem Engine.stage_hsCnt (bs : List Byte) :
    (e.stage bs).hsCnt = e.hsCnt := rfl
@[simp] theorem Engine.stage_echoCnt (bs : List Byte) :
    (e.stage bs).echoCnt = e.echoCnt := rfl
@[simp] theorem Engine.stage_idx (bs : List Byte) :
    (e.stage bs).idx = e.idx := rfl
@[simp] theorem Engine.stage_result (bs : List Byte) :
    (e.stage bs).result = e.result := rfl
@[simp] theorem Engine.stage_port (bs : List Byte) :
    (e.stage bs).port = e.port := rfl
@[simp] theorem Engine.stage_draws (bs : List Byte) :
    (e.stage bs).draws = e.draws := rfl

/-! `Engine.log` -/

@[simp] theorem Engine.log_state (ev : PortEvent) :
    (e.log ev).state = e.state := rfl
@[simp] theorem Engine.log_acc (ev : PortEvent) :
    (e.log ev).acc = e.acc := rfl
@[simp] theorem Engine.log_rxBuf (ev : PortEvent) :
    (e.log ev).rxBuf = e.rxBuf := rfl
@[simp] theorem Engine.log_rxLen (ev : PortEvent) :
    (e.log ev).rxLen = e.rxLen := rfl
@[simp] theorem Engine.log_txBuf (ev : PortEvent) :
    (e.log ev).txBuf = e.txBuf := rfl
@[simp] theorem Engine.log_txLen (ev : PortEvent) :
    (e.log ev).txLen = e.txLen := rfl
@[simp] theorem Engine.log_hsCnt (ev : PortEvent) :
    (e.log ev).hsCnt = e.hsCnt := rfl
@[simp] theorem Engine.log_echoCnt (ev : PortEvent) :
    (e.log ev).echoCnt = e.echoCnt := rfl
@[simp] theorem Engine.log_idx (ev : PortEvent) :
    (e.log ev).idx = e.idx := rfl
@[simp] theorem Engine.log_result (ev : PortEvent) :
    (e.log ev).result = e.result := rfl
@[simp] theorem Engine.log_port (ev : PortEvent) :
    (e.log ev).port = { e.port with trace := e.port.trace ++ [ev] } := rfl
@[simp] theorem Engine.log_draws (ev : PortEvent) :
    (e.log ev).draws = e.draws := rfl

/-! `Engine.consume` -/

@[simp] theorem Engine.consume_state :
    (e.consume).state = e.state := rfl
@[simp] theorem Engine.consume_acc :
    (e.consume).acc = e.acc := rfl
@[simp] theorem Engine.consume_rxBuf :
    (e.consume).rxBuf = e.rxBuf := rfl
@[simp] theorem Engine.consume_rxLen :
    (e.consume).rxLen = e.rxLen := rfl
@[simp] theorem Engine.consume_txBuf :
    (e.consume).txBuf = e.txBuf := rfl
@[simp] theorem Engine.consume_txLen :
    (e.consume).txLen = e.txLen := rfl
@[simp] theorem Engine.consume_hsCnt :
    (e.consume).hsCnt = e.hsCnt := rfl
@[simp] theorem Engine.consume_echoCnt :
    (e.consume).echoCnt = e.echoCnt := rfl
@[simp] theorem Engine.consume_idx :
    (e.consume).idx = e.idx := rfl
@[simp] theorem Engine.consume_result :
    (e.consume).result = e.result := rfl
@[simp] theorem Engine.consume_port :
    (e.consume).port = { e.port with inbox := e.port.inbox.tail } := rfl
@[simp] theorem Engine.consume_draws :
    (e.consume).draws = e.draws := rfl

/-! `Engine.finish` -/

@[simp] theorem Engine.finish_state :
    (e.finish).state = .idle := rfl
@[simp] theorem Engine.finish_acc :
    (e.finish).acc = e.acc := rfl
@[simp] theorem Engine.finish_rxBuf :
    (e.finish).rxBuf = e.rxBuf := rfl
@[simp] theorem Engine.finish_rxLen :
    (e.finish).rxLen = e.rxLen := rfl
@[simp] theorem Engine.finish_txBuf :
    (e.finish).txBuf = e.txBuf := rfl
@[simp] theorem Engine.finish_txLen :
    (e.finish).txLen = e.txLen := rfl
@[simp] theorem Engine.finish_hsCnt :
    (e.finish).hsCnt = e.hsCnt := rfl
@[simp] theorem Engine.finish_echoCnt :
    (e.finish).echoCnt = e.echoCnt := rfl
@[simp] theorem Engine.finish_idx :
    (e.finish).idx = e.idx := rfl
@[simp] theorem Engine.finish_result :
    (e.finish).result = .ok := rfl
@[simp] theorem Engine.finish_port :
    (e.finish).port = e.port := rfl
@[simp] theorem Engine.finish_draws :
    (e.finish).draws = e.draws := rfl

/-! `Engine.loseRx` -/

@[simp] theorem Engine.loseRx_state : e.loseRx.state = e.state := rfl
@[simp] theorem Engine.loseRx_result : e.loseRx.result = e.result := rfl
@[simp] theorem Engine.loseRx_acc : e.loseRx.acc = e.acc := rfl
@[simp] theorem Engine.loseRx_txBuf : e.loseRx.txBuf = e.txBuf := rfl
@[simp] theorem Engine.loseRx_txLen : e.loseRx.txLen = e.txLen := rfl
@[simp] theorem Engine.loseRx_hsCnt : e.loseRx.hsCnt = e.hsCnt := rfl
@[simp] theorem Engine.loseRx_echoCnt : e.loseRx.echoCnt = e.echoCnt := rfl
@[simp] theorem Engine.loseRx_idx : e.loseRx.idx = e.idx := rfl
@[simp] theorem Engine.loseRx_port : e.loseRx.port = e.port := rfl

/-! `Engine.abort` -/

@[simp] theorem Engine.abort_state (k : ErrKind) : (e.abort k).state = .idle := rfl
@[simp] theorem Engine.abort_result (k : ErrKind) : (e.abort k).result = .err k := rfl
@[simp] theorem Engine.abort_acc (k : ErrKind) : (e.abort k).acc = e.acc := by
  cases h : e.state.receiving <;> simp [Engine.abort, h]
@[simp] theorem Engine.abort_txBuf (k : ErrKind) : (e.abort k).txBuf = e.txBuf := by
  cases h : e.state.receiving <;> simp [Engine.abort, h]
@[simp] theorem Engine.abort_txLen (k : ErrKind) : (e.abort k).txLen = e.txLen := by
  cases h : e.state.receiving <;> simp [Engine.abort, h]
@[simp] theorem Engine.abort_hsCnt (k : ErrKind) : (e.abort k).hsCnt = e.hsCnt := by
  cases h : e.state.receiving <;> simp [Engine.abort, h]
@[simp] theorem Engine.abort_echoCnt (k : ErrKind) : (e.abort k).echoCnt = e.echoCnt := by
  cases h : e.state.receiving <;> simp [Engine.abort, h]
@[simp] theorem Engine.abort_idx (k : ErrKind) : (e.abort k).idx = e.idx := by
  cases h : e.state.receiving <;> simp [Engine.abort, h]
@[simp] theorem Engine.abort_port (k : ErrKind) : (e.abort k).port = e.port := by
  cases h : e.state.receiving <;> simp [Engine.abort, h]
theorem Engine.abort_of_not_receiving (k : ErrKind) (h : e.state.receiving = false) :
    e.abort k = { e with result := .err k, state := .idle } := by
  simp [Engine.abort, h]
theorem Engine.abort_of_receiving (k : ErrKind) (h : e.state.receiving = true) :
    e.abort k = { e.loseRx with result := .err k, state := .idle } := by
  simp [Engine.abort, h]

/-! `Engine.toReset` -/

@[simp] theorem Engine.toReset_state :
    (e.toReset).state = Engine.reset.state := rfl
@[simp] theorem Engine.toReset_acc :
    (e.toReset).acc = Engine.reset.acc := rfl
@[simp] theorem Engine.toReset_rxBuf :
    (e.toReset).rxBuf = Engine.reset.rxBuf := rfl
@[simp] theorem Engine.toReset_rxLen :
    (e.toReset).rxLen = Engine.reset.rxLen := rfl
@[simp] theorem Engine.toReset_txBuf :
    (e.toReset).txBuf = Engine.reset.txBuf := rfl
@[simp] theorem Engine.toReset_txLen :
    (e.toReset).txLen = Engine.reset.txLen := rfl
@[simp] theorem Engine.toReset_hsCnt :
    (e.toReset).hsCnt = Engine.reset.hsCnt := rfl
@[simp] theorem Engine.toReset_echoCnt :
    (e.toReset).echoCnt = Engine.reset.echoCnt := rfl
@[simp] theorem Engine.toReset_idx :
    (e.toReset).idx = Engine.reset.idx := rfl
@[simp] theorem Engine.toReset_result :
    (e.toReset).result = Engine.reset.result := rfl
@[simp] theorem Engine.toReset_port :
    (e.toReset).port = e.port := rfl
@[simp] theorem Engine.toReset_draws :
    (e.toReset).draws = e.draws := rfl

end Sys2Proof.Machine
end

