-- ==== Sys2Proof/Laws/Memory.lean ====
section
/-! SUPPORT. The laws of target memory: a read after a write, the canonical form every operation keeps,
and the packet buffers. -/

namespace Sys2Proof.Machine

/-! ### Canonical form -/

theorem Memory.wfFrom_mono {lo lo' : Nat} (hl : lo' ≤ lo) :
    ∀ {m : Memory}, m.wfFrom lo = true → m.wfFrom lo' = true
  | [], _ => rfl
  | (a, v) :: m, h => by
    simp only [Memory.wfFrom, Bool.and_eq_true, decide_eq_true_eq] at h ⊢
    exact ⟨⟨⟨by omega, h.1.1.2⟩, h.1.2⟩, h.2⟩

/-- What memory lists from `lo` on says nothing of an address below `lo`. -/
theorem Memory.read_below {lo k : Nat} :
    ∀ {m : Memory}, m.wfFrom lo = true → k < lo → m.read k = Memory.unlisted
  | [], _, _ => rfl
  | (a, v) :: m, h, hk => by
    simp only [Memory.wfFrom, Bool.and_eq_true, decide_eq_true_eq] at h
    rw [Memory.read, if_neg (by omega)]
    exact Memory.read_below h.2 (by omega)

theorem Memory.wfFrom_write {lo k : Nat} {v : Byte} (hlo : lo ≤ k) (hk : k < 2 ^ Config.addrBits) :
    ∀ {m : Memory}, m.wfFrom lo = true → (m.write k v).wfFrom lo = true
  | [], _ => by
    simp only [Memory.write]
    split <;> simp_all [Memory.wfFrom]
  | (a, w) :: m, h => by
    simp only [Memory.wfFrom, Bool.and_eq_true, decide_eq_true_eq] at h
    obtain ⟨⟨⟨h1, h2⟩, h3⟩, h4⟩ := h
    simp only [Memory.write]
    split
    · next hlt =>
      simp only [Memory.wfFrom, Bool.and_eq_true, decide_eq_true_eq]
      exact ⟨⟨⟨h1, h2⟩, h3⟩, Memory.wfFrom_write (by omega) hk h4⟩
    · split
      · next hge heq =>
        subst heq
        split
        · exact Memory.wfFrom_mono (by omega) h4
        · simp_all [Memory.wfFrom]
      · split
        · simp_all [Memory.wfFrom]
        · simp only [Memory.wfFrom, Bool.and_eq_true, decide_eq_true_eq]
          exact ⟨⟨⟨hlo, hk⟩, by assumption⟩, ⟨⟨⟨by omega, h2⟩, h3⟩, h4⟩⟩

/-- A store keeps the canonical form. -/
theorem Memory.wf_write {m : Memory} {a : Word} {v : Byte} (h : m.wf = true) :
    (m.write a.toNat v).wf = true :=
  Memory.wfFrom_write (Nat.zero_le _) a.isLt h

/-- Other agents' stores keep the canonical form. -/
theorem Memory.wf_storeAll : ∀ {l : List (Word × Byte)} {m : Memory},
    m.wf = true → (m.storeAll l).wf = true
  | [], _, h => h
  | c :: l, m, h => by
    rw [Memory.storeAll]
    exact Memory.wf_storeAll (l := l) (Memory.wf_write h)

/-- Reset memory is canonical. -/
theorem Memory.wf_reset : State.reset.mem.wf = true := rfl

/-! ### Reads after writes -/

/-- A read of any address after a write, from any canonical memory. -/
theorem Memory.read_write_from {lo k k' : Nat} {v : Byte} :
    ∀ {m : Memory}, m.wfFrom lo = true → (m.write k v).read k' = if k = k' then v else m.read k'
  | [], _ => by
    simp only [Memory.write, Memory.read]
    split <;> split <;> simp_all [Memory.read]
  | (a, w) :: m, h => by
    simp only [Memory.wfFrom, Bool.and_eq_true, decide_eq_true_eq] at h
    have ih := Memory.read_write_from (k := k) (k' := k') (v := v) h.2
    have hb : ∀ q, q < a + 1 → Memory.read m q = Memory.unlisted := fun q hq => Memory.read_below h.2 hq
    simp only [Memory.write]
    split
    · simp only [Memory.read, ih]
      split <;> split <;> first | rfl | omega
    · split
      · next h2 =>
        subst h2
        split
        · next hv =>
          simp only [Memory.read]
          split
          · next h3 => subst h3; rw [hb _ (by omega), hv]
          · rfl
        · simp only [Memory.read]
          split <;> rfl
      · split
        · next hv =>
          split
          · next h3 =>
            subst h3
            simp only [Memory.read]
            rw [if_neg (by omega), hb _ (by omega), hv]
          · rfl
        · simp only [Memory.read]

/-- A read after a write: the byte written at its address, every other address as before. -/
theorem Memory.read_write {m : Memory} (h : m.wf = true) (k k' : Nat) (v : Byte) :
    (m.write k v).read k' = if k = k' then v else m.read k' :=
  Memory.read_write_from h

/-- Another agent's stores leave every address alone that they do not name. -/
theorem Memory.read_storeAll : ∀ {l : List (Word × Byte)} {m : Memory} {k : Nat},
    m.wf = true → (∀ c ∈ l, c.1.toNat ≠ k) → (m.storeAll l).read k = m.read k
  | [], _, _, _, _ => rfl
  | c :: l, m, k, h, hk => by
    rw [Memory.storeAll, Memory.read_storeAll (Memory.wf_write h) fun d hd => hk d (by simp [hd]),
      Memory.read_write h, if_neg (hk c (by simp))]

/-! ### Buffers -/

@[simp] theorem bufPut_toList {n : Nat} (buf : Vector Byte n) (i : Nat) (b : Byte) :
    (bufPut buf i b).toList = buf.toList.set i b := rfl

/-- Cells written in order from `i` on, all of them in range. -/
theorem bufPutAll_toList {n : Nat} : ∀ (bs : List Byte) (buf : Vector Byte n) (i : Nat),
    i + bs.length ≤ n →
    (bufPutAll buf i bs).toList = buf.toList.take i ++ bs ++ buf.toList.drop (i + bs.length)
  | [], buf, i, _ => by simp [bufPutAll]
  | b :: bs, buf, i, h => by
    simp only [List.length_cons] at h
    have hlen : buf.toList.length = n := by simp
    rw [bufPutAll, bufPutAll_toList bs _ _ (by omega), bufPut_toList, List.drop_set_of_lt (by omega),
      List.take_add_one, List.take_set_of_le (Nat.le_refl i), List.getElem?_set_self (by omega)]
    simp [Nat.add_assoc, Nat.add_comm 1]

/-- A staged packet that fits is the outgoing packet. -/
theorem Engine.stage_txPacket {e : Engine} {bs : List Byte} (h : bs.length ≤ 257) :
    (e.stage bs).txPacket = bs := by
  simp only [Engine.txPacket, bufTake, Engine.stage_txBuf, Engine.stage_txLen]
  rw [bufPutAll_toList _ _ _ (by omega)]
  simp

end Sys2Proof.Machine
end

