-- ==== Sys2Proof/Laws/Link.lean ====
section
/-! SUPPORT. What the loops of the link layer can do, each said once: against a channel that answers
every transfer, and against any channel. -/

namespace Sys2Proof.Machine

/-! ### The port -/

/-- The engine after the port transactions `evs`, one yield used up by each. -/
def Engine.moved (evs : List PortEvent) (e : Engine) : Engine :=
  { e with
    port := { inbox := e.port.inbox.drop evs.length, trace := e.port.trace ++ evs } }

@[simp] theorem Engine.moved_nil (e : Engine) : e.moved [] = e := by
  simp [Engine.moved]

theorem Engine.consume_log (e : Engine) (ev : PortEvent) : e.consume.log ev = e.moved [ev] := by
  simp [Engine.consume, Engine.log, Engine.moved]

@[simp] theorem Engine.moved_moved (e : Engine) (evs evs' : List PortEvent) :
    (e.moved evs).moved evs' = e.moved (evs ++ evs') := by
  simp [Engine.moved]

/-- The next yield is a byte: the transfer goes on. -/
theorem Engine.xfer_byte {e : Engine} {o v : Byte} {rest : List Yield} {go : Byte → Engine → Attempt}
    (h : e.port.inbox = .byte v :: rest) :
    e.xfer o go = go v (e.moved [.xfer o (.byte v)]) := by
  simp [Engine.xfer, Engine.answer, h, Engine.consume_log]

/-- A transfer either raises BYTE_TIMEOUT or goes on with the byte it got. -/
theorem Engine.xfer_cases (e : Engine) (o : Byte) (go : Byte → Engine → Attempt) :
    (e.answer = .timeout ∧ e.xfer o go = (.err .byteTimeout, e.moved [.xfer o .timeout])) ∨
    ∃ v, e.answer = .byte v ∧ e.xfer o go = go v (e.moved [.xfer o (.byte v)]) := by
  unfold Engine.xfer
  split
  · next h => exact .inl ⟨h, by rw [Engine.consume_log]⟩
  · next v h => exact .inr ⟨v, h, by rw [Engine.consume_log]⟩

@[simp] theorem byteYields_cons (v : Byte) (vs : List Byte) :
    byteYields (v :: vs) = .byte v :: byteYields vs := rfl

@[simp] theorem byteYields_append (vs ws : List Byte) :
    byteYields (vs ++ ws) = byteYields vs ++ byteYields ws := by
  simp [byteYields]

@[simp] theorem byteYields_length (vs : List Byte) : (byteYields vs).length = vs.length := by
  simp [byteYields]

@[simp] theorem xfers_nil : xfers [] [] = [] := rfl

@[simp] theorem xfers_cons (o v : Byte) (os vs : List Byte) :
    xfers (o :: os) (v :: vs) = .xfer o (.byte v) :: xfers os vs := rfl

theorem xfers_append {os vs os' vs' : List Byte} (h : os.length = vs.length) :
    xfers (os ++ os') (vs ++ vs') = xfers os vs ++ xfers os' vs' := by
  simp [xfers, List.zipWith_append h]

theorem xfers_length {os vs : List Byte} (h : os.length = vs.length) :
    (xfers os vs).length = vs.length := by
  simp [xfers, h]

/-! ### Lengths -/

theorem Engine.badLength_iff (p : Params) (e : Engine) :
    e.badLength p = true ↔ e.txLen < 1 ∨ p.pktMax < e.txLen := by
  rw [Engine.badLength, Bool.or_eq_true, decide_eq_true_eq, decide_eq_true_eq]

theorem Engine.badLength_false_iff (p : Params) (e : Engine) :
    e.badLength p = false ↔ 1 ≤ e.txLen ∧ e.txLen ≤ p.pktMax := by
  rw [← Bool.not_eq_true, e.badLength_iff]
  omega

/-- What parameters in range say (00_scope.md rule R6). -/
theorem Params.inRange_iff (p : Params) : p.inRange = true ↔
    1 ≤ p.hsAttempts ∧ 1 ≤ p.recvEchoCount ∧ p.pktMax = 256 ∧ p.addrBits = 32 := by
  rw [Params.inRange, Bool.and_eq_true, Bool.and_eq_true, Bool.and_eq_true, decide_eq_true_eq,
    decide_eq_true_eq, decide_eq_true_eq, decide_eq_true_eq, and_assoc, and_assoc]
  rfl

theorem Engine.txPacket_length_le (e : Engine) : e.txPacket.length ≤ e.txLen := by
  simp [Engine.txPacket, bufTake]

/-- `ADDR_BITS` being 32, target addresses are words modulo 2^32 (20_memory.md rule R57). -/
theorem addrOf_32 (addr : Word) (j : Nat) : addrOf 32 addr j = addr + BitVec.ofNat 32 j :=
  BitVec.eq_of_toNat_eq (by simp [addrOf])

theorem bufTake_length {n : Nat} {buf : Vector Byte n} {len : Nat} (h : len ≤ n) :
    (bufTake buf len).length = len := by
  simp [bufTake]; omega

theorem lengthOf_lengthByte {len : Nat} (h1 : 1 ≤ len) (h2 : len ≤ 256) :
    lengthOf (lengthByte len) = len := by
  simp [lengthOf, lengthByte]; omega

theorem lengthOf_range (v : Byte) : 1 ≤ lengthOf v ∧ lengthOf v ≤ 256 := by
  have := v.isLt
  simp [lengthOf]; omega

/-! ### Every transfer answered -/

/-- A search whose match comes after fewer misses than its bound. -/
theorem search_matches {tx awaited : Byte} : ∀ {n : Nat} {misses : List Byte} {rest : List Yield}
    {e : Engine}, e.port.inbox = byteYields misses ++ .byte awaited :: rest →
    (∀ m ∈ misses, m ≠ awaited) → misses.length < n →
    search tx awaited n e = (.ok,
      { e with
        hsCnt := e.hsCnt + (misses.length + 1)
        port :=
          { inbox := rest
            trace := e.port.trace ++
              xfers (List.replicate (misses.length + 1) tx) (misses ++ [awaited]) } })
  | n + 1, [], rest, e, h, _, _ => by
    rw [search, Engine.xfer_byte h]
    simp_all [Engine.moved, byteYields, List.replicate]
  | n + 1, m :: ms, rest, e, h, hm, hn => by
    rw [search, Engine.xfer_byte (by simpa using h), if_neg (hm m (by simp)),
      search_matches (misses := ms) (rest := rest) (by simp [Engine.moved, h])
        (fun q hq => hm q (by simp [hq])) (by simpa using hn)]
    simp [Engine.moved, List.replicate_succ, Nat.add_assoc, Nat.add_comm 1]

/-- Confirmation or echo transfers that all get a byte. -/
theorem echo_all {hs : Byte} : ∀ {vs : List Byte} {rest : List Yield} {e : Engine},
    e.port.inbox = byteYields vs ++ rest →
    echo hs vs.length e = (.ok,
      { e with
        echoCnt := e.echoCnt + vs.length
        port :=
          { inbox := rest
            trace := e.port.trace ++ xfers (List.replicate vs.length hs) vs } })
  | [], rest, e, h => by
    obtain rfl : rest = e.port.inbox := by simpa [byteYields] using h.symm
    simp [echo]
  | v :: vs, rest, e, h => by
    rw [List.length_cons, echo, Engine.xfer_byte (by simpa using h),
      echo_all (vs := vs) (rest := rest) (by simp [Engine.moved, h])]
    simp [Engine.moved, List.replicate_succ, Nat.add_assoc, Nat.add_comm 1]

/-- Payload transfers of a SendPacket that all get a byte. -/
theorem sendPayload_all : ∀ {bs vs : List Byte} {rest : List Yield} {e : Engine},
    bs.length = vs.length → e.port.inbox = byteYields vs ++ rest →
    sendPayload bs e = (.ok,
      { e with
        acc := csum e.acc bs
        idx := e.idx + bs.length
        port := { inbox := rest, trace := e.port.trace ++ xfers bs vs } })
  | [], [], rest, e, _, h => by
    obtain rfl : rest = e.port.inbox := by simpa [byteYields] using h.symm
    simp [sendPayload, csum]
  | b :: bs, v :: vs, rest, e, hl, h => by
    rw [sendPayload, Engine.xfer_byte (by simpa using h),
      sendPayload_all (vs := vs) (rest := rest) (by simpa using hl) (by simp [Engine.moved, h])]
    simp [Engine.moved, csum, Nat.add_assoc, Nat.add_comm 1]

/-- Payload transfers of a ReceivePacket that all get a byte. -/
theorem receivePayload_all : ∀ {vs : List Byte} {rest : List Yield} {e : Engine},
    e.port.inbox = byteYields vs ++ rest →
    receivePayload vs.length e = (.ok,
      { e with
        acc := csum e.acc vs
        rxBuf := bufPutAll e.rxBuf e.idx vs
        idx := e.idx + vs.length
        port :=
          { inbox := rest
            trace := e.port.trace ++
              xfers ((List.range' e.idx vs.length).map (BitVec.ofNat 8)) vs } })
  | [], rest, e, h => by
    obtain rfl : rest = e.port.inbox := by simpa [byteYields] using h.symm
    simp [receivePayload, csum, bufPutAll]
  | v :: vs, rest, e, h => by
    rw [List.length_cons, receivePayload, Engine.xfer_byte (by simpa using h),
      receivePayload_all (vs := vs) (rest := rest) (by simp [Engine.moved, h])]
    simp [Engine.moved, csum, bufPutAll, List.range'_succ, Nat.add_assoc, Nat.add_comm 1]

/-! ### Any channel -/

@[simp] theorem byteAnswers_nil : byteAnswers [] = [] := rfl

@[simp] theorem byteAnswers_cons_byte (o v : Byte) (evs : List PortEvent) :
    byteAnswers (.xfer o (.byte v) :: evs) = v :: byteAnswers evs := rfl

@[simp] theorem byteAnswers_cons_timeout (o : Byte) (evs : List PortEvent) :
    byteAnswers (.xfer o .timeout :: evs) = byteAnswers evs := rfl

@[simp] theorem byteAnswers_append (evs evs' : List PortEvent) :
    byteAnswers (evs ++ evs') = byteAnswers evs ++ byteAnswers evs' :=
  List.filterMap_append

/-- How a loop of at most `bound` transfers ended, other than by running to its end: only its last
transfer got `Timeout`. -/
def TimedOut (bound : Nat) (evs : List PortEvent) (r : Result) : Prop :=
  r = .err .byteTimeout ∧ evs.length ≤ bound ∧
  ∃ front last, evs = front ++ [last] ∧ last.isTimeout ∧ ∀ ev ∈ front, ev.isByteXfer

theorem TimedOut.cons {bound : Nat} {ev : PortEvent} {evs : List PortEvent} {r : Result}
    (hev : ev.isByteXfer) (h : TimedOut bound evs r) : TimedOut (bound + 1) (ev :: evs) r := by
  obtain ⟨hr, hl, front, last, rfl, ht, hf⟩ := h
  exact ⟨hr, by simpa using hl, ev :: front, last, rfl, ht, by simpa [hev] using hf⟩

theorem TimedOut.one {bound : Nat} {o : Byte} : TimedOut (bound + 1) [.xfer o .timeout]
    (.err .byteTimeout) :=
  ⟨rfl, by simp, [], _, rfl, rfl, by simp⟩

/-- Everything a search can do: `HS_CNT` counts its transfers; it matches, or times out, or uses up its
bound. -/
theorem search_spec (tx awaited : Byte) : ∀ (n : Nat) (e : Engine), ∃ evs k,
    (search tx awaited n e).2 = { e.moved evs with hsCnt := e.hsCnt + k } ∧ k ≤ n ∧
    (byteAnswers evs).length = k ∧
    (((search tx awaited n e).1 = .ok ∧ 1 ≤ evs.length ∧ evs.length ≤ n ∧
        ∀ ev ∈ evs, ev.isByteXfer) ∨
      TimedOut n evs (search tx awaited n e).1 ∨
      ((search tx awaited n e).1 = .err .handshakeTimeout ∧ evs.length = n ∧
        ∀ ev ∈ evs, ev.isByteXfer))
  | 0, e => ⟨[], 0, by simp [search], by simp, rfl, .inr (.inr ⟨rfl, rfl, by simp⟩)⟩
  | n + 1, e => by
    simp only [search]
    rcases e.xfer_cases tx fun v e =>
      if v = awaited then (.ok, { e with hsCnt := e.hsCnt + 1 })
      else search tx awaited n { e with hsCnt := e.hsCnt + 1 } with ⟨-, h⟩ | ⟨v, -, h⟩
    · rw [h]
      exact ⟨[.xfer tx .timeout], 0, by simp [Engine.moved], by omega, rfl, .inr (.inl .one)⟩
    · rw [h]
      by_cases hv : v = awaited
      · simp only [if_pos hv]
        exact ⟨[.xfer tx (.byte v)], 1, by simp [Engine.moved], by omega, rfl,
          .inl ⟨trivial, by simp, by simp, by simp [PortEvent.isByteXfer]⟩⟩
      · simp only [if_neg hv]
        obtain ⟨evs, k, h1, h2, hb, h3⟩ := search_spec tx awaited n
          { e.moved [.xfer tx (.byte v)] with hsCnt := (e.moved [.xfer tx (.byte v)]).hsCnt + 1 }
        refine ⟨.xfer tx (.byte v) :: evs, k + 1, ?_, by omega, by simp [hb], ?_⟩
        · rw [h1]
          simp [Engine.moved, Nat.add_assoc, Nat.add_comm 1]
        · rcases h3 with ⟨a, b, c, d⟩ | h3 | ⟨a, b, c⟩
          · exact .inl ⟨a, by simp, by simpa using c, by simpa [PortEvent.isByteXfer] using d⟩
          · exact .inr (.inl (h3.cons rfl))
          · exact .inr (.inr ⟨a, by simpa using b, by simpa [PortEvent.isByteXfer] using c⟩)

/-- Everything confirmation or echo transfers can do. -/
theorem echo_spec (hs : Byte) : ∀ (n : Nat) (e : Engine), ∃ evs k,
    (echo hs n e).2 = { e.moved evs with echoCnt := e.echoCnt + k } ∧ k ≤ n ∧
    (byteAnswers evs).length = k ∧
    (((echo hs n e).1 = .ok ∧ evs.length = n ∧ k = n ∧ ∀ ev ∈ evs, ev.isByteXfer) ∨
      TimedOut n evs (echo hs n e).1)
  | 0, e => ⟨[], 0, by simp [echo], by simp, rfl, .inl ⟨rfl, rfl, rfl, by simp⟩⟩
  | n + 1, e => by
    simp only [echo]
    rcases e.xfer_cases hs fun _ e => echo hs n { e with echoCnt := e.echoCnt + 1 } with
      ⟨-, h⟩ | ⟨v, -, h⟩
    · rw [h]
      exact ⟨[.xfer hs .timeout], 0, by simp [Engine.moved], by omega, rfl, .inr .one⟩
    · rw [h]
      obtain ⟨evs, k, h1, h2, hb, h3⟩ := echo_spec hs n
        { e.moved [.xfer hs (.byte v)] with
          echoCnt := (e.moved [.xfer hs (.byte v)]).echoCnt + 1 }
      refine ⟨.xfer hs (.byte v) :: evs, k + 1, ?_, by omega, by simp [hb], ?_⟩
      · rw [h1]
        simp [Engine.moved, Nat.add_assoc, Nat.add_comm 1]
      · rcases h3 with ⟨a, b, c, d⟩ | h3
        · exact .inl ⟨a, by simpa using b, by omega, by simpa [PortEvent.isByteXfer] using d⟩
        · exact .inr (h3.cons rfl)

/-- Everything SendPacket's payload transfers can do: `ACC` is folded over the bytes whose transfer has
returned. -/
theorem sendPayload_spec : ∀ (bs : List Byte) (e : Engine), ∃ evs k,
    (sendPayload bs e).2 =
      { e.moved evs with acc := csum e.acc (bs.take k), idx := e.idx + k } ∧ k ≤ bs.length ∧
    (byteAnswers evs).length = k ∧
    (((sendPayload bs e).1 = .ok ∧ evs.length = bs.length ∧ k = bs.length ∧
        ∀ ev ∈ evs, ev.isByteXfer) ∨
      TimedOut bs.length evs (sendPayload bs e).1)
  | [], e => ⟨[], 0, by simp [sendPayload, csum], by simp, rfl, .inl ⟨rfl, rfl, rfl, by simp⟩⟩
  | b :: bs, e => by
    simp only [sendPayload]
    rcases e.xfer_cases b fun _ e =>
      sendPayload bs { e with acc := csumStep e.acc b, idx := e.idx + 1 } with ⟨-, h⟩ | ⟨v, -, h⟩
    · rw [h]
      exact ⟨[.xfer b .timeout], 0, by simp [Engine.moved, csum], by omega, rfl, .inr .one⟩
    · rw [h]
      obtain ⟨evs, k, h1, h2, hb, h3⟩ := sendPayload_spec bs
        { e.moved [.xfer b (.byte v)] with
          acc := csumStep (e.moved [.xfer b (.byte v)]).acc b
          idx := (e.moved [.xfer b (.byte v)]).idx + 1 }
      refine ⟨.xfer b (.byte v) :: evs, k + 1, ?_, by simpa using h2, by simp [hb], ?_⟩
      · rw [h1]
        simp [Engine.moved, csum, Nat.add_assoc, Nat.add_comm 1]
      · rcases h3 with ⟨a, b', c, d⟩ | h3
        · exact .inl ⟨a, by simpa using b', by simpa using c, by simpa [PortEvent.isByteXfer] using d⟩
        · exact .inr (h3.cons rfl)

/-- Everything ReceivePacket's payload transfers can do: the bytes that came in are written in order
and folded. -/
theorem receivePayload_spec : ∀ (n : Nat) (e : Engine), ∃ evs vs,
    (receivePayload n e).2 =
      { e.moved evs with
        acc := csum e.acc vs
        rxBuf := bufPutAll e.rxBuf e.idx vs
        idx := e.idx + vs.length } ∧ vs.length ≤ n ∧ byteAnswers evs = vs ∧
    (((receivePayload n e).1 = .ok ∧ evs.length = n ∧ vs.length = n ∧
        ∀ ev ∈ evs, ev.isByteXfer) ∨
      TimedOut n evs (receivePayload n e).1)
  | 0, e => ⟨[], [], by simp [receivePayload, csum, bufPutAll], by simp, rfl,
      .inl ⟨rfl, rfl, rfl, by simp⟩⟩
  | n + 1, e => by
    simp only [receivePayload]
    rcases e.xfer_cases (BitVec.ofNat 8 e.idx) fun v e =>
      receivePayload n
        { e with rxBuf := bufPut e.rxBuf e.idx v, acc := csumStep e.acc v, idx := e.idx + 1 } with
      ⟨-, h⟩ | ⟨v, -, h⟩
    · rw [h]
      exact ⟨[.xfer (BitVec.ofNat 8 e.idx) .timeout], [], by simp [Engine.moved, csum, bufPutAll],
        by simp, rfl, .inr .one⟩
    · rw [h]
      obtain ⟨evs, vs, h1, h2, hb, h3⟩ := receivePayload_spec n
        { e.moved [.xfer (BitVec.ofNat 8 e.idx) (.byte v)] with
          rxBuf := bufPut e.rxBuf e.idx v
          acc := csumStep e.acc v
          idx := e.idx + 1 }
      refine ⟨.xfer (BitVec.ofNat 8 e.idx) (.byte v) :: evs, v :: vs, ?_, by simpa using h2,
        by simp [hb], ?_⟩
      · simp only [Engine.moved] at h1 ⊢
        rw [h1]
        simp [csum, bufPutAll, Nat.add_assoc, Nat.add_comm 1]
      · simp only [Engine.moved] at h3 ⊢
        rcases h3 with ⟨a, b', c, d⟩ | h3
        · exact .inl ⟨a, by simpa using b', by simpa using c, by simpa [PortEvent.isByteXfer] using d⟩
        · exact .inr (h3.cons rfl)

/-! ### The two link operations -/

theorem EndsAs.of_timedOut {attempts bound c : Nat} {evs evs' : List PortEvent} {r : Result}
    (h : TimedOut c evs' r) (hall : ∀ ev ∈ evs, ev.isByteXfer) (hle : evs.length + c ≤ bound) :
    EndsAs attempts bound (evs ++ evs') r := by
  obtain ⟨h1, h2, f, l, rfl, h4, h5⟩ := h
  refine ⟨by simp at *; omega, .inr (.inl ⟨h1, evs ++ f, l, by simp, h4, fun ev hev => ?_⟩)⟩
  rcases List.mem_append.1 hev with h | h
  exacts [hall _ h, h5 _ h]

theorem EndsAs.ok {attempts bound : Nat} {evs : List PortEvent} (hle : evs.length ≤ bound)
    (h : ∀ ev ∈ evs, ev.isByteXfer) : EndsAs attempts bound evs .ok :=
  ⟨hle, .inl ⟨rfl, h⟩⟩

theorem EndsAs.gaveUp {attempts bound : Nat} {evs : List PortEvent} (hle : attempts ≤ bound)
    (hl : evs.length = attempts) (h : ∀ ev ∈ evs, ev.isByteXfer) :
    EndsAs attempts bound evs (.err .handshakeTimeout) :=
  ⟨by omega, .inr (.inr (.inl ⟨rfl, hl, h⟩))⟩

theorem all_append {evs evs' : List PortEvent} (h : ∀ ev ∈ evs, ev.isByteXfer)
    (h' : ∀ ev ∈ evs', ev.isByteXfer) : ∀ ev ∈ evs ++ evs', ev.isByteXfer := by
  simpa [or_imp, forall_and] using ⟨h, h'⟩

/-- The end of a SendPacket that got past its first check: `sent` bytes were folded. -/
def sendEnd (p : Params) (e : Engine) (evs : List PortEvent) (r : Result) (sent hs echoes ix : Nat) :
    Engine :=
  { e.moved evs with
    state := .idle
    result := r
    acc := csum p.seed (e.txPacket.take sent)
    hsCnt := hs
    echoCnt := echoes
    idx := ix }

theorem Attempt.conclude_sending {r : Result} {e : Engine} (h : e.state.receiving = false) :
    Attempt.conclude (r, e) = { e with state := .idle, result := r } := by
  cases r
  · rfl
  · simp [Attempt.conclude, Engine.abort_of_not_receiving _ _ h]

/-- A SendPacket with an illegal length changes `LE_RESULT` and `LE_STATE` alone, from an engine that
is not receiving. -/
theorem sendPacket_badLength {p : Params} {e : Engine} (hb : e.badLength p = true) :
    sendPacket p e = e.abort .invalidLength := by
  rw [sendPacket, if_pos hb]

/-- Everything a SendPacket of a legal length can do. -/
theorem sendPacket_spec (p : Params) (e : Engine) (hb : e.badLength p = false) :
    ∃ evs r sent hs echoes ix, sendPacket p e = sendEnd p e evs r sent hs echoes ix ∧
      EndsAs p.hsAttempts (p.hsAttempts + p.sendConfirmCount + 1 + e.txLen) evs r ∧
      r ≠ .err .invalidLength ∧ (r = .ok → sent = e.txPacket.length) ∧ hs ≤ p.hsAttempts ∧
      (ix = e.idx ∨ ix ≤ e.txLen) ∧
      sent = (byteAnswers evs).length - (hs + p.sendConfirmCount + 1) := by
  have hp := e.txPacket_length_le
  rw [sendPacket, if_neg (by simp [hb])]
  obtain ⟨evs, k, h1, hk, hbk, h3⟩ := search_spec p.hsSend p.hsSend p.hsAttempts
    { e with acc := p.seed, state := .sSearch, hsCnt := 0 }
  obtain ⟨⟨r, e1⟩, h⟩ : ∃ a, search p.hsSend p.hsSend p.hsAttempts
    { e with acc := p.seed, state := .sSearch, hsCnt := 0 } = a := ⟨_, rfl⟩
  rw [h] at h1 h3 ⊢
  clear h
  obtain rfl := h1
  simp only [Nat.zero_add] at h3 ⊢
  rcases h3 with ⟨rfl, -, hle, hall⟩ | ht | ⟨rfl, hle, hall⟩
  · simp only [Attempt.andThen, Engine.moved]
    obtain ⟨evs', k', h1, hk', hbk', h3⟩ := echo_spec p.hsSend p.sendConfirmCount
      { e with
        acc := p.seed
        state := .sConfirm
        hsCnt := k
        echoCnt := 0
        port := { inbox := e.port.inbox.drop evs.length, trace := e.port.trace ++ evs } }
    obtain ⟨⟨r, e1⟩, h⟩ : ∃ a, echo p.hsSend p.sendConfirmCount
      { e with
        acc := p.seed
        state := .sConfirm
        hsCnt := k
        echoCnt := 0
        port := { inbox := e.port.inbox.drop evs.length, trace := e.port.trace ++ evs } } = a :=
      ⟨_, rfl⟩
    rw [h] at h1 h3 ⊢
    clear h
    obtain rfl := h1
    simp only [Nat.zero_add, Engine.moved] at h3 ⊢
    rcases h3 with ⟨rfl, hle', hkc, hall'⟩ | ht
    · simp only
      rcases Engine.xfer_cases (({ e with
          acc := p.seed
          state := .sLen
          hsCnt := k
          echoCnt := k'
          port := { inbox := (e.port.inbox.drop evs.length).drop evs'.length
                    trace := e.port.trace ++ evs ++ evs' } } : Engine)) (lengthByte e.txLen)
          (fun _ e => sendPayload e.txPacket { e with state := .sPay, idx := 0 }) with
        ⟨-, h⟩ | ⟨v, -, h⟩
      · rw [h]
        refine ⟨evs ++ (evs' ++ [.xfer (lengthByte e.txLen) .timeout]), _, 0, k, k', e.idx, ?_,
          .of_timedOut (c := p.sendConfirmCount + 1) ⟨rfl, by simp; omega, evs', _, rfl, rfl, hall'⟩
            hall (by omega), by simp, by simp, hk, .inl rfl, by simp [hbk, hbk']; omega⟩
        rw [Attempt.conclude_sending rfl]
        simp [sendEnd, Engine.moved, csum, Nat.add_assoc]
      · rw [h]
        simp only [Engine.moved, List.length_singleton]
        obtain ⟨evs2, k2, h1, hk2, hbk2, h3⟩ := sendPayload_spec e.txPacket { e with
          acc := p.seed
          state := .sPay
          hsCnt := k
          echoCnt := k'
          idx := 0
          port := { inbox := ((e.port.inbox.drop evs.length).drop evs'.length).drop 1
                    trace := e.port.trace ++ evs ++ evs' ++
                      [.xfer (lengthByte e.txLen) (.byte v)] } }
        change ∃ _ _ _ _ _ _, Attempt.conclude (sendPayload e.txPacket _) = _ ∧ _
        obtain ⟨⟨r, e1⟩, h⟩ : ∃ a, sendPayload e.txPacket { e with
          acc := p.seed
          state := .sPay
          hsCnt := k
          echoCnt := k'
          idx := 0
          port := { inbox := ((e.port.inbox.drop evs.length).drop evs'.length).drop 1
                    trace := e.port.trace ++ evs ++ evs' ++
                      [.xfer (lengthByte e.txLen) (.byte v)] } } = a := ⟨_, rfl⟩
        rw [h] at h1 h3 ⊢
        clear h
        obtain rfl := h1
        simp only [Nat.zero_add] at h3 ⊢
        have hallv : ∀ ev ∈ evs ++ (evs' ++ [PortEvent.xfer (lengthByte e.txLen) (.byte v)]),
            ev.isByteXfer :=
          all_append hall (all_append hall' (by simp [PortEvent.isByteXfer]))
        refine ⟨evs ++ (evs' ++ [.xfer (lengthByte e.txLen) (.byte v)]) ++ evs2, r, k2, k, k', k2,
          ?_, ?_, ?_, ?_, hk, .inr (by omega), by simp [hbk, hbk', hbk2]; omega⟩
        · rw [Attempt.conclude_sending rfl]
          simp [sendEnd, Engine.moved, Nat.add_assoc, Nat.add_comm 1]
        · rcases h3 with ⟨rfl, hl2, -, hall2⟩ | ht
          · exact .ok (by simp; omega) (all_append hallv hall2)
          · exact .of_timedOut ht hallv (by simp; omega)
        · rcases h3 with ⟨rfl, -⟩ | ht
          · simp
          · simp [ht.1]
        · rcases h3 with ⟨-, -, h, -⟩ | ht
          · intro _; omega
          · simp [ht.1]
    · obtain ⟨rfl, h⟩ := id ht
      refine ⟨evs ++ evs', _, 0, k, k', e.idx, ?_, .of_timedOut ht hall (by omega), by simp, by simp,
        hk, .inl rfl, by simp [hbk, hbk']; omega⟩
      simp only
      rw [Attempt.conclude_sending rfl]
      simp [sendEnd, Engine.moved, csum]
  · obtain ⟨rfl, h⟩ := id ht
    refine ⟨evs, _, 0, k, e.echoCnt, e.idx, ?_,
      .of_timedOut (evs := []) ht (by simp) (by simp; omega), by simp, by simp, hk, .inl rfl,
      by simp [hbk]; omega⟩
    simp only [Attempt.andThen]
    rw [Attempt.conclude_sending rfl]
    simp [sendEnd, Engine.moved, csum]
  · refine ⟨evs, _, 0, k, e.echoCnt, e.idx, ?_, .gaveUp (by omega) hle hall, by simp, by simp, hk,
      .inl rfl, by simp [hbk]; omega⟩
    simp only [Attempt.andThen]
    rw [Attempt.conclude_sending rfl]
    simp [sendEnd, Engine.moved, csum]

/-- A ReceivePacket that delivered `packet`. -/
def receiveEnd (p : Params) (e : Engine) (evs : List PortEvent) (packet : List Byte) (hs echoes : Nat) :
    Engine :=
  { e.moved evs with
    state := .idle
    result := .ok
    acc := csum p.seed packet
    rxBuf := bufPutAll e.rxBuf 0 packet
    rxLen := packet.length
    hsCnt := hs
    echoCnt := echoes
    idx := packet.length }

/-- A ReceivePacket that failed: the bytes `got` of a payload had been folded, the receive registers
are free values. -/
def receiveFail (p : Params) (e : Engine) (evs : List PortEvent) (k : ErrKind) (got : List Byte)
    (hs echoes ix : Nat) : Engine :=
  { (e.moved evs).loseRx with
    state := .idle
    result := .err k
    acc := csum p.seed got
    hsCnt := hs
    echoCnt := echoes
    idx := ix }

theorem Attempt.conclude_receiving {k : ErrKind} {e : Engine} (h : e.state.receiving = true) :
    Attempt.conclude (.err k, e) = { e.loseRx with state := .idle, result := .err k } := by
  simp [Attempt.conclude, Engine.abort_of_receiving _ _ h]

/-- Everything a ReceivePacket can do. -/
theorem receivePacket_spec (p : Params) (e : Engine) :
    (∃ evs packet hs echoes, receivePacket p e = receiveEnd p e evs packet hs echoes ∧
      EndsAs p.hsAttempts (p.hsAttempts + p.recvEchoCount + 1 + 256) evs .ok ∧
      1 ≤ packet.length ∧ packet.length ≤ 256 ∧ hs ≤ p.hsAttempts ∧
      packet = (byteAnswers evs).drop (hs + p.recvEchoCount + 1)) ∨
    (∃ evs k got hs echoes ix, receivePacket p e = receiveFail p e evs k got hs echoes ix ∧
      EndsAs p.hsAttempts (p.hsAttempts + p.recvEchoCount + 1 + 256) evs (.err k) ∧
      k ≠ .invalidLength ∧ hs ≤ p.hsAttempts ∧ (ix = e.idx ∨ ix ≤ 256) ∧
      got = (byteAnswers evs).drop (hs + p.recvEchoCount + 1)) := by
  rw [receivePacket]
  obtain ⟨evs, k, h1, hk, hbk, h3⟩ := search_spec 0x00#8 p.hsRecv p.hsAttempts
    { e with acc := p.seed, state := .rSearch, hsCnt := 0 }
  obtain ⟨⟨r, e1⟩, h⟩ : ∃ a, search 0x00#8 p.hsRecv p.hsAttempts
    { e with acc := p.seed, state := .rSearch, hsCnt := 0 } = a := ⟨_, rfl⟩
  rw [h] at h1 h3 ⊢
  clear h
  obtain rfl := h1
  simp only [Nat.zero_add] at h3 ⊢
  rcases h3 with ⟨rfl, -, hle, hall⟩ | ht | ⟨rfl, hle, hall⟩
  · simp only [Attempt.andThen, Engine.moved]
    obtain ⟨evs', k', h1, hk', hbk', h3⟩ := echo_spec p.hsRecv p.recvEchoCount
      { e with
        acc := p.seed
        state := .rEcho
        hsCnt := k
        echoCnt := 0
        port := { inbox := e.port.inbox.drop evs.length, trace := e.port.trace ++ evs } }
    obtain ⟨⟨r, e1⟩, h⟩ : ∃ a, echo p.hsRecv p.recvEchoCount
      { e with
        acc := p.seed
        state := .rEcho
        hsCnt := k
        echoCnt := 0
        port := { inbox := e.port.inbox.drop evs.length, trace := e.port.trace ++ evs } } = a :=
      ⟨_, rfl⟩
    rw [h] at h1 h3 ⊢
    clear h
    obtain rfl := h1
    simp only [Nat.zero_add, Engine.moved] at h3 ⊢
    rcases h3 with ⟨rfl, hle', hkc, hall'⟩ | ht
    · simp only
      rcases Engine.xfer_cases (({ e with
          acc := p.seed
          state := .rLen
          hsCnt := k
          echoCnt := k'
          port := { inbox := (e.port.inbox.drop evs.length).drop evs'.length
                    trace := e.port.trace ++ evs ++ evs' } } : Engine)) 0x00#8
          (fun v e => receivePayload (lengthOf v)
            { e with rxLen := lengthOf v, state := .rPay, idx := 0 }) with
        ⟨-, h⟩ | ⟨v, -, h⟩
      · rw [h]
        refine .inr ⟨evs ++ (evs' ++ [.xfer 0x00#8 .timeout]), _, [], k, k', e.idx, ?_,
          .of_timedOut (c := p.recvEchoCount + 1) ⟨rfl, by simp; omega, evs', _, rfl, rfl, hall'⟩
            hall (by omega), by simp, hk, .inl rfl, 
        (List.drop_eq_nil_of_le (by simp; omega)).symm⟩
        rw [Attempt.conclude_receiving rfl]
        simp [receiveFail, Engine.loseRx, Engine.moved, csum, Nat.add_assoc]
      · rw [h]
        simp only [Engine.moved, List.length_singleton]
        have hv := lengthOf_range v
        obtain ⟨evs2, vs, h1, hk2, hbv, h3⟩ := receivePayload_spec (lengthOf v) { e with
          acc := p.seed
          state := .rPay
          rxLen := lengthOf v
          hsCnt := k
          echoCnt := k'
          idx := 0
          port := { inbox := ((e.port.inbox.drop evs.length).drop evs'.length).drop 1
                    trace := e.port.trace ++ evs ++ evs' ++ [.xfer 0x00#8 (.byte v)] } }
        obtain ⟨⟨r, e1⟩, h⟩ : ∃ a, receivePayload (lengthOf v) { e with
          acc := p.seed
          state := .rPay
          rxLen := lengthOf v
          hsCnt := k
          echoCnt := k'
          idx := 0
          port := { inbox := ((e.port.inbox.drop evs.length).drop evs'.length).drop 1
                    trace := e.port.trace ++ evs ++ evs' ++ [.xfer 0x00#8 (.byte v)] } } = a :=
          ⟨_, rfl⟩
        rw [h] at h1 h3 ⊢
        clear h
        obtain rfl := h1
        simp only [Nat.zero_add] at h3 ⊢
        have hallv : ∀ ev ∈ evs ++ (evs' ++ [PortEvent.xfer 0x00#8 (.byte v)]), ev.isByteXfer :=
          all_append hall (all_append hall' (by simp [PortEvent.isByteXfer]))
        have hdrop : vs = (byteAnswers (evs ++ (evs' ++ [PortEvent.xfer 0x00#8 (.byte v)]) ++
            evs2)).drop (k + p.recvEchoCount + 1) := by
          rw [byteAnswers_append, hbv, List.drop_left' (by simp; omega)]
        rcases h3 with ⟨rfl, hl2, hvs, hall2⟩ | ht
        · refine .inl ⟨evs ++ (evs' ++ [.xfer 0x00#8 (.byte v)]) ++ evs2, vs, k, k', ?_,
            .ok (by simp; omega) (all_append hallv hall2), by omega, by omega, hk, hdrop⟩
          simp [Attempt.conclude, Engine.finish, receiveEnd, Engine.moved, Nat.add_assoc,
            Nat.add_comm 1, hvs]
        · obtain ⟨rfl, -⟩ := id ht
          refine .inr ⟨evs ++ (evs' ++ [.xfer 0x00#8 (.byte v)]) ++ evs2, _, vs, k, k', vs.length, ?_,
            .of_timedOut ht hallv (by simp; omega), by simp, hk, .inr (by omega), hdrop⟩
          rw [Attempt.conclude_receiving rfl]
          simp [receiveFail, Engine.loseRx, Engine.moved, Nat.add_assoc, Nat.add_comm 1]
    · obtain ⟨rfl, h⟩ := id ht
      refine .inr ⟨evs ++ evs', _, [], k, k', e.idx, ?_, .of_timedOut ht hall (by omega), by simp, hk,
        .inl rfl, 
        (List.drop_eq_nil_of_le (by simp; omega)).symm⟩
      simp only
      rw [Attempt.conclude_receiving rfl]
      simp [receiveFail, Engine.loseRx, Engine.moved, csum]
  · obtain ⟨rfl, h⟩ := id ht
    refine .inr ⟨evs, _, [], k, e.echoCnt, e.idx, ?_,
      .of_timedOut (evs := []) ht (by simp) (by simp; omega), by simp, hk, .inl rfl, 
      (List.drop_eq_nil_of_le (by omega)).symm⟩
    simp only [Attempt.andThen]
    rw [Attempt.conclude_receiving rfl]
    simp [receiveFail, Engine.loseRx, Engine.moved, csum]
  · refine .inr ⟨evs, _, [], k, e.echoCnt, e.idx, ?_, .gaveUp (by omega) hle hall, by simp, hk,
      .inl rfl, 
      (List.drop_eq_nil_of_le (by omega)).symm⟩
    simp only [Attempt.andThen]
    rw [Attempt.conclude_receiving rfl]
    simp [receiveFail, Engine.loseRx, Engine.moved, csum]

end Sys2Proof.Machine
end

