-- ==== Sys2Proof/Laws/Commands.lean ====
section
/-! SUPPORT. What the copy loops and the sends of a command transaction can do, each said once. -/

namespace Sys2Proof.Machine

/-! ### The copies -/

/-- Another agent's stores before each of the next `n` accesses, and nothing else. -/
def storesOf (m : Memory) (stores : List (List (Word × Byte))) (n : Nat) : Memory :=
  (stores.take n).foldl Memory.storeAll m

theorem storesOf_succ (m : Memory) (stores : List (List (Word × Byte))) (n : Nat) :
    storesOf m stores (n + 1) = storesOf (m.storeAll (stores.headD [])) stores.tail n := by
  cases stores <;> simp [storesOf, Memory.storeAll]

/-- Memory after `data` has been copied out from data byte `j` on, with the other agents' stores in
between, addresses being `w` bits wide. -/
def copied (w : Nat) (m : Memory) (stores : List (List (Word × Byte))) (addr : Word) :
    Nat → List Byte → Memory
  | _, [] => m
  | j, b :: bs =>
    copied w ((m.storeAll (stores.headD [])).write (addrOf w addr j).toNat b) stores.tail addr (j + 1) bs

/-- Everything a copy to memory changes. -/
theorem State.copyOut_spec : ∀ (data : List Byte) (s : State),
    s.copyOut data =
      { s with
        mem := copied s.cfg.target.addrBits s.mem s.otherStores s.target.addr s.target.j data
        otherStores := s.otherStores.drop data.length
        target :=
          { s.target with
            j := s.target.j + data.length
            eng :=
              { s.target.eng with
                port :=
                  { s.target.eng.port with
                    trace := s.target.eng.port.trace ++
                      data.mapIdx fun i b => .memWrite (addrOf s.cfg.target.addrBits s.target.addr (s.target.j + i)) b } } } }
  | [], s => by simp [State.copyOut, copied]
  | b :: bs, s => by
    rw [State.copyOut, State.copyOut_spec bs]
    simp [State.copyOutByte, State.memWrite, State.memNow, State.onTarget, Responder.onEng,
      Engine.log, copied, List.mapIdx_cons, Nat.add_assoc, Nat.add_comm 1]

/-- The bytes a copy from memory reads, from data byte `j` on. -/
def readBytes (w : Nat) (m : Memory) (stores : List (List (Word × Byte))) (addr : Word) :
    Nat → Nat → List Byte
  | _, 0 => []
  | j, n + 1 =>
    (m.storeAll (stores.headD [])).read (addrOf w addr j).toNat ::
      readBytes w (m.storeAll (stores.headD [])) stores.tail addr (j + 1) n

theorem readBytes_length {w : Nat} : ∀ (n j : Nat) (m : Memory)
    (stores : List (List (Word × Byte))) (addr : Word), (readBytes w m stores addr j n).length = n
  | 0, _, _, _, _ => rfl
  | n + 1, j, m, stores, addr => by
    rw [readBytes, List.length_cons, readBytes_length n]

/-- Everything a copy from memory changes. -/
theorem State.copyIn_spec : ∀ (n : Nat) (s : State),
    s.copyIn n =
      { s with
        mem := storesOf s.mem s.otherStores n
        otherStores := s.otherStores.drop n
        target :=
          { s.target with
            j := s.target.j + n
            eng :=
              { s.target.eng with
                txBuf := bufPutAll s.target.eng.txBuf (1 + s.target.j)
                  (readBytes s.cfg.target.addrBits s.mem s.otherStores s.target.addr s.target.j n)
                port :=
                  { s.target.eng.port with
                    trace := s.target.eng.port.trace ++
                      (readBytes s.cfg.target.addrBits s.mem s.otherStores s.target.addr s.target.j n).mapIdx fun i v =>
                        .memRead (addrOf s.cfg.target.addrBits s.target.addr (s.target.j + i)) v } } } }
  | 0, s => by simp [State.copyIn, storesOf, readBytes, bufPutAll]
  | n + 1, s => by
    rw [State.copyIn, State.copyIn_spec n]
    simp [State.copyInByte, State.memRead, State.memByte, State.memNow, State.onTarget,
      Responder.onEng, Engine.log, storesOf_succ, readBytes, bufPutAll, List.mapIdx_cons,
      Nat.add_assoc, Nat.add_comm 1]

/-! ### Memory after a copy -/

theorem wf_copied {w : Nat} : ∀ (data : List Byte) (m : Memory) (stores : List (List (Word × Byte)))
    (addr : Word) (j : Nat), m.wf = true → (copied w m stores addr j data).wf = true
  | [], _, _, _, _, h => h
  | b :: bs, m, stores, addr, j, h => by
    rw [copied]
    exact wf_copied bs _ _ _ _ (Memory.wf_write (Memory.wf_storeAll h))

theorem wf_storesOf : ∀ (n : Nat) (m : Memory) (stores : List (List (Word × Byte))),
    m.wf = true → (storesOf m stores n).wf = true
  | 0, _, _, h => by simpa [storesOf] using h
  | n + 1, m, stores, h => by
    rw [storesOf_succ]
    exact wf_storesOf n _ _ (Memory.wf_storeAll h)

/-- A copy to memory keeps the canonical form. -/
theorem State.wf_copyOut {s : State} {data : List Byte} (h : s.mem.wf = true) :
    (s.copyOut data).mem.wf = true := by
  rw [State.copyOut_spec]
  exact wf_copied _ _ _ _ _ h

/-- A copy from memory keeps the canonical form. -/
theorem State.wf_copyIn {s : State} {n : Nat} (h : s.mem.wf = true) :
    (s.copyIn n).mem.wf = true := by
  rw [State.copyIn_spec]
  exact wf_storesOf _ _ _ h

theorem State.wf_memWrite {s : State} {a : Word} {v : Byte} (h : s.mem.wf = true) :
    (s.memWrite a v).mem.wf = true :=
  Memory.wf_write (Memory.wf_storeAll h)

theorem State.wf_memRead {s : State} {a : Word} (h : s.mem.wf = true) :
    (s.memRead a).mem.wf = true :=
  Memory.wf_storeAll h

/-- An address outside the copy, and outside the other agents' stores, is left alone. -/
theorem copied_outside {w : Nat} : ∀ (data : List Byte) (m : Memory) (stores : List (List (Word × Byte)))
    (addr : Word) (j k : Nat), m.wf = true →
    (∀ i, i < data.length → (addrOf w addr (j + i)).toNat ≠ k) →
    OutsideStores (stores.take data.length) k → (copied w m stores addr j data).read k = m.read k
  | [], _, _, _, _, _, _, _, _ => rfl
  | b :: bs, m, stores, addr, j, k, h, ha, hs => by
    have hw := Memory.wf_storeAll (l := stores.headD []) h
    rw [copied, copied_outside bs _ _ _ _ _ (Memory.wf_write hw)
      (fun i hi => by
        have := ha (i + 1) (by simpa using hi)
        rwa [show j + (i + 1) = j + 1 + i by omega] at this)
      (fun l hl => hs l (by
        cases stores with
        | nil => simp at hl
        | cons x xs => exact List.mem_cons_of_mem _ (by simpa using hl)))]
    rw [Memory.read_write hw, if_neg (by simpa using ha 0 (by simp))]
    refine Memory.read_storeAll h (fun c hc => ?_)
    cases stores with
    | nil => simp at hc
    | cons x xs => exact hs x (by simp) c (by simpa using hc)

/-- Addresses of a copy of at most 2^32 bytes are different. -/
theorem addrOf_inj {addr : Word} {i j : Nat} (hi : i < 2 ^ 32) (hj : j < 2 ^ 32)
    (h : (addrOf 32 addr i).toNat = (addrOf 32 addr j).toNat) : i = j := by
  simp only [addrOf, BitVec.toNat_ofNat] at h
  have := addr.isLt
  omega

/-- With no other agent storing, each address of the copy holds its data byte. -/
theorem copied_inside : ∀ (data : List Byte) (m : Memory) (stores : List (List (Word × Byte)))
    (addr : Word) (j : Nat), m.wf = true → Undisturbed stores → j + data.length ≤ 2 ^ 32 →
    ∀ (i : Nat) (hi : i < data.length),
      (copied 32 m stores addr j data).read (addrOf 32 addr (j + i)).toNat = data[i]
  | b :: bs, m, stores, addr, j, h, hu, hl, i, hi => by
    have hw := Memory.wf_storeAll (l := stores.headD []) h
    have hu' : Undisturbed stores.tail := fun l hl => hu l (List.mem_of_mem_tail hl)
    simp only [List.length_cons] at hl hi
    rw [copied]
    match i, hi with
    | 0, _ =>
      rw [copied_outside bs _ _ _ _ _ (Memory.wf_write hw)
        (fun i hi heq => by
          have := addrOf_inj (by omega) (by omega) heq
          omega)
        (fun l hl c hc => by rw [hu' l (List.mem_of_mem_take hl)] at hc; simp at hc)]
      rw [Memory.read_write hw]
      simp
    | i + 1, hi =>
      have := copied_inside bs
        ((m.storeAll (stores.headD [])).write (addrOf 32 addr j).toNat b) stores.tail addr (j + 1)
        (Memory.wf_write hw) hu' (by omega) i (by omega)
      simpa [show j + 1 + i = j + (i + 1) by omega] using this

/-- With no other agent storing, a copy from memory reads memory as it stands. -/
theorem readBytes_undisturbed {w : Nat} : ∀ (n : Nat) (m : Memory) (stores : List (List (Word × Byte)))
    (addr : Word) (j : Nat), Undisturbed stores → ∀ (i : Nat)
    (hi : i < (readBytes w m stores addr j n).length),
      (readBytes w m stores addr j n)[i] = m.read (addrOf w addr (j + i)).toNat
  | n + 1, m, stores, addr, j, hu, i, hi => by
    have h0 : m.storeAll (stores.headD []) = m := by
      cases stores with
      | nil => rfl
      | cons x xs => rw [List.headD_cons, hu x (by simp)]; rfl
    have hu' : Undisturbed stores.tail := fun l hl => hu l (List.mem_of_mem_tail hl)
    match i, hi with
    | 0, _ => simp only [readBytes, List.getElem_cons_zero, Nat.add_zero, h0]
    | i + 1, hi =>
      simp only [readBytes, h0, List.getElem_cons_succ]
      rw [readBytes_undisturbed n m _ addr (j + 1) hu' i _, show j + 1 + i = j + (i + 1) by omega]

/-! ### The sends -/

/-- The ack's send changes the Responder's LE and `CD_STATE` alone. -/
theorem State.sendAck_eq (s : State) (cd : CdState) :
    s.sendAck cd = { s with target := { s.target with
      cd := cd
      eng := sendPacket s.cfg.target (s.target.eng.stage (0x01#8 :: leBytes s.target.eng.acc)) } } :=
  rfl

/-- The answer to a WriteMemoryRegion's phase-2 packet changes the Responder's LE and `CD_STATE`
alone. -/
theorem State.confirmWrite_eq (s : State) (opcode : Byte) :
    s.confirmWrite opcode = { s with target := { s.target with
      cd := .awaitCmd
      eng := sendPacket s.cfg.target (s.target.eng.stage
        (if opcode = 0x00#8 then 0x01#8 :: leBytes s.target.eng.acc else [0x00#8])) } } := by
  by_cases h : opcode = 0x00#8 <;>
    simp [State.confirmWrite, State.sendReply, State.sendFromTarget, State.gotoCd, State.onTarget,
      Responder.goto, Responder.makeAck, Responder.makeUnexpected, Responder.onEng, h]

/-- The answer to a ReadMemoryRegion's phase-2 packet changes the Responder's LE and `CD_STATE`
alone. -/
theorem State.confirmRead_eq (s : State) (opcode : Byte) :
    s.confirmRead opcode = { s with target := { s.target with
      cd := .awaitCmd
      eng := sendPacket s.cfg.target
        (if opcode = 0x03#8 then s.target.eng else s.target.eng.stage [0x00#8]) } } := by
  by_cases h : opcode = 0x03#8 <;>
    simp [State.confirmRead, State.sendReply, State.sendFromTarget, State.gotoCd, State.onTarget,
      Responder.goto, Responder.makeUnexpected, Responder.onEng, h]

end Sys2Proof.Machine
end

