-- ==== Sys2Proof/Laws/PerInstr.lean ====
section
/-! SUPPORT. What holds of every well-formed instruction as a packet: its encoding fits a frame
(30_encoding.md rule R72) and starts with its opcode (rules R75, R76). One lemma per constructor. -/

namespace Sys2Proof.Laws.PacketFits

/-- A well-formed instruction's packet has 1 to 256 bytes, the first of them its opcode, which is not
reserved in its direction (30_encoding.md rules R72, R84, R85). -/
def Statement (i : Instr) : Prop :=
  i.wellFormed = true →
    1 ≤ (encode i).length ∧ (encode i).length ≤ 256 ∧ (encode i).head? = some i.opcode ∧
    (i.direction = .h2t → i.opcode.toNat ≤ 3) ∧ (i.direction = .t2h → i.opcode.toNat ≤ 2)

theorem checkStatus (trailing : List Byte) : Statement (.checkStatus trailing) := by
  intro h
  simp [Instr.wellFormed] at h
  simp [encode, Instr.operandBytes, Instr.opcode, Instr.direction]
  omega

theorem writeMemoryRegion (ops : WriteOperands) : Statement (.writeMemoryRegion ops) := by
  intro h
  cases ops <;> simp [Instr.wellFormed, WriteOperands.wellFormed] at h <;>
    simp [encode, Instr.operandBytes, encodeWrite, Machine.beBytes, Instr.opcode, Instr.direction] <;>
    omega

theorem readMemoryRegion (ops : ReadOperands) : Statement (.readMemoryRegion ops) := by
  intro h
  cases ops <;> simp [Instr.wellFormed, ReadOperands.wellFormed] at h <;>
    simp [encode, Instr.operandBytes, encodeRead, Machine.beBytes, Instr.opcode, Instr.direction] <;>
    omega

theorem readMemoryRegionData (trailing : List Byte) : Statement (.readMemoryRegionData trailing) := by
  intro h
  simp [Instr.wellFormed] at h
  simp [encode, Instr.operandBytes, Instr.opcode, Instr.direction]
  omega

theorem rspUnexpectedCommand : Statement .rspUnexpectedCommand := by
  intro _
  simp [encode, Instr.operandBytes, Instr.opcode, Instr.direction]

theorem rspOkWithChecksum (checksum : Word) : Statement (.rspOkWithChecksum checksum) := by
  intro _
  simp [encode, Instr.operandBytes, Machine.leBytes, Instr.opcode, Instr.direction]

theorem rspReadMemoryRegionData (data : List Byte) : Statement (.rspReadMemoryRegionData data) := by
  intro h
  simp [Instr.wellFormed] at h
  simp [encode, Instr.operandBytes, Instr.opcode, Instr.direction]
  omega

end Sys2Proof.Laws.PacketFits
end

