-- ==== Sys2Proof/Tests/Slice0.lean ====
section
/-! SUPPORT. Tests of the model against the worked values of 95_test_vectors.md and the packet formats of
30_encoding.md, and a witness for the hypotheses of each obligation that has any. -/

namespace Sys2Proof.Tests

open Machine

/-! ### Small states -/

/-- The parameters of 95_test_vectors.md section 0, with `HS_ATTEMPTS` and the two counts given. -/
def hostP (a c e : Nat) : Params where
  hsSend := 0x55#8
  hsRecv := 0xAA#8
  hsAttempts := a
  sendConfirmCount := c
  recvEchoCount := e
  seed := 0x12345678#32
  pktMax := 256
  addrBits := 32
  pollLimit := 0
  settleDelay := 0

/-- The same for the target. -/
def targetP (a c e : Nat) : Params := { hostP a c e with hsSend := 0xAA#8, hsRecv := 0x55#8 }

/-- Both peers of a link, on the lockstep channel. -/
def cfg : LinkParams := { target := targetP 20 1 1, host := hostP 20 1 1, channel := .lockstep }

/-- Both peers just reset, with these parameters. -/
def base : State := State.resetWith cfg

/-- An LE just reset, a packet staged to send, and the oracle `ys`. -/
def leWith (tx : List Byte) (ys : List Yield) : Engine :=
  { Engine.reset.stage tx with port := { inbox := ys, trace := [] } }

/-- An LE that has received `packet`, its checksum in `ACC`, with the oracle `ys`. -/
def leHolding (packet : List Byte) (ys : List Yield) : Engine :=
  { Engine.reset with
    acc := csum 0x12345678#32 packet
    rxBuf := bufPutAll Engine.reset.rxBuf 0 packet
    rxLen := packet.length
    port := { inbox := ys, trace := [] } }

/-- A Responder in `cd` that has received `packet`. -/
def atCd (cd : CdState) (packet : List Byte) (ys : List Yield) : State :=
  { base with
    target :=
      { base.target with
        cd := cd
        cmd := packet.headD 0x00#8
        cmdLen := packet.length
        eng := leHolding packet ys } }

/-- A Responder in `R_CONF` with the data reply `reply` staged, that has received `packet`. -/
def atRConf (reply packet : List Byte) (ys : List Yield) : State :=
  (atCd .rConf packet ys).onTarget fun r => { r with cnt := reply.length - 1, eng := r.eng.stage reply }

/-- A Sender in `xo` that has received `reply`, its request's checksum in `TX_CSUM`. -/
def atXo (xo : XoState) (reply : List Byte) (ys : List Yield) : State :=
  { base with
    turn := .sender
    host :=
      { base.host with
        xo := xo
        txCsum := 0x91A2B3C0#32
        eng := { leHolding reply ys with draws := 1 } } }

/-- A Responder listening in `cd` with the oracle `ys`. -/
def listeningAt (cd : CdState) (ys : List Yield) : State :=
  { base with target := { base.target with cd := cd, eng := leWith [] ys } }

/-- A Sender with one request and the oracle `ys`. -/
def requesting (b : List Byte) (ys : List Yield) : State :=
  { base with
    turn := .sender
    requests := [b]
    host := { base.host with eng := { leWith [] ys with draws := 1 } } }

/-- Oracle answers under which a SendPacket of the target of `n` bytes succeeds at once. -/
def sends (n : Nat) : List Byte := 0xAA#8 :: List.replicate (2 + n) 0x00#8

/-- Oracle answers that bring one frame to the target. -/
def frameIn (packet : List Byte) : List Byte :=
  0x55#8 :: ([0x00#8] ++ lengthByte packet.length :: packet)

/-- The same for the host. -/
def replyIn (packet : List Byte) : List Byte :=
  0xAA#8 :: ([0x00#8] ++ lengthByte packet.length :: packet)

/-- The bytes transmitted so far. -/
def sent (e : Engine) : List Byte :=
  e.port.trace.filterMap fun ev => match ev with
    | .xfer o _ => some o
    | _ => none

/-- The state a step or an instruction ends in, if any. -/
def after (o : Host.Outcome State Fault Refusal) : Option State :=
  match o with
  | .next s => some s
  | _ => none

theorem answersSend_clean {p : Params} {len : Nat} {back : List Byte}
    (hl : 1 ≤ len ∧ len ≤ p.pktMax) (ha : 1 ≤ p.hsAttempts)
    (h : back.length = p.sendConfirmCount + 1 + len) : AnswersSend p len (p.hsSend :: back) :=
  ⟨hl.1, hl.2, [], back, rfl, by simp, ha, h⟩

theorem answersReceive_clean {p : Params} {packet echoes : List Byte} (ha : 1 ≤ p.hsAttempts)
    (he : echoes.length = p.recvEchoCount) (h1 : 1 ≤ packet.length) (h2 : packet.length ≤ 256) :
    AnswersReceive p packet (p.hsRecv :: (echoes ++ lengthByte packet.length :: packet)) :=
  ⟨h1, h2, [], echoes, rfl, by simp, ha, he⟩

/-! ### Well-formedness -/

theorem test_wf_refuses :
    (Instr.checkStatus (List.replicate 256 0x00#8)).wellFormed = false ∧
    (Instr.writeMemoryRegion (.full 0#32 (List.replicate 252 0x00#8))).wellFormed = false ∧
    (Instr.writeMemoryRegion (.short (List.replicate 4 0x00#8))).wellFormed = false ∧
    (Instr.readMemoryRegion (.full 0#32 0x00#8 (List.replicate 251 0x00#8))).wellFormed = false ∧
    (Instr.readMemoryRegion (.short (List.replicate 5 0x00#8))).wellFormed = false ∧
    (Instr.readMemoryRegionData (List.replicate 256 0x00#8)).wellFormed = false ∧
    (Instr.rspReadMemoryRegionData []).wellFormed = false ∧
    (Instr.rspReadMemoryRegionData (List.replicate 256 0x00#8)).wellFormed = false := by decide +kernel

theorem test_wf_accepts :
    (Instr.checkStatus (List.replicate 255 0x00#8)).wellFormed = true ∧
    (Instr.writeMemoryRegion (.full 0#32 (List.replicate 251 0x00#8))).wellFormed = true ∧
    (Instr.readMemoryRegion (.full 0#32 0xFF#8 (List.replicate 250 0x00#8))).wellFormed = true ∧
    (Instr.rspReadMemoryRegionData (List.replicate 255 0x00#8)).wellFormed = true := by decide +kernel

/-- Parameters outside rule R6's ranges, and peers that break rule R7. -/
theorem test_params_refused :
    (hostP 0 1 1).inRange = false ∧ (hostP 1 0 0).inRange = false ∧ cfg.inRange = true ∧
    cfg.compatible = true ∧ ({ cfg with host := targetP 20 1 1 } : LinkParams).compatible = false := by
  decide

/-! ### Decoding: each word from 30_encoding.md rules R77-R83, bit 0 of a byte last -/

/-- CHECK_STATUS: payload byte 0 is 0x00; trailing bytes are kept. -/
theorem test_decode_checkStatus :
    decode .h2t [0b00000000#8, 0xAB#8] = .ok (.checkStatus [0xAB#8]) := by decide

/-- WRITE_MEMORY_REGION: 0x01, A[31:24], A[23:16], A[15:8], A[7:0], data. -/
theorem test_decode_write :
    decode .h2t [0b00000001#8, 0x12#8, 0x34#8, 0x56#8, 0x78#8, 0x9A#8, 0xBC#8] =
      .ok (.writeMemoryRegion (.full 0x12345678#32 [0x9A#8, 0xBC#8])) ∧
    decode .h2t [0x01#8, 0x12#8, 0x34#8, 0x56#8] =
      .ok (.writeMemoryRegion (.short [0x12#8, 0x34#8, 0x56#8])) := by decide

/-- READ_MEMORY_REGION: 0x02, the address, N - 1, trailing. -/
theorem test_decode_read :
    decode .h2t [0b00000010#8, 0x80#8, 0x00#8, 0x00#8, 0x01#8, 0xFF#8, 0x99#8] =
      .ok (.readMemoryRegion (.full 0x80000001#32 0xFF#8 [0x99#8])) ∧
    decode .h2t [0x02#8, 0x00#8, 0x00#8, 0x20#8, 0x00#8] =
      .ok (.readMemoryRegion (.short [0x00#8, 0x00#8, 0x20#8, 0x00#8])) := by decide

/-- READ_MEMORY_REGION_DATA: 0x03. -/
theorem test_decode_readData :
    decode .h2t [0b00000011#8] = .ok (.readMemoryRegionData []) := by decide

/-- The responses: 0x00 alone; 0x01 and C[7:0] first; 0x02 and the data. -/
theorem test_decode_responses :
    decode .t2h [0b00000000#8] = .ok .rspUnexpectedCommand ∧
    decode .t2h [0b00000001#8, 0x35#8, 0x31#8, 0x33#8, 0x78#8] =
      .ok (.rspOkWithChecksum 0x78333135#32) ∧
    decode .t2h [0b00000010#8, 0xDE#8, 0xAD#8, 0xBE#8, 0xEF#8] =
      .ok (.rspReadMemoryRegionData [0xDE#8, 0xAD#8, 0xBE#8, 0xEF#8]) := by decide

/-- Rejects by name: rules R72, R80-R82, R84, R85. -/
theorem test_decode_rejects :
    decode .h2t [] = .error .emptyPacket ∧
    decode .h2t (List.replicate 257 0x00#8) = .error .longerThanAPacket ∧
    decode .h2t [0x04#8] = .error (.reservedCommand 0x04#8) ∧
    decode .t2h [0x03#8] = .error (.reservedResponse 0x03#8) ∧
    decode .t2h [0x00#8, 0x00#8] = .error (.responseLength 0x00#8) ∧
    decode .t2h [0x01#8, 0x00#8] = .error (.responseLength 0x01#8) ∧
    decode .t2h [0x02#8] = .error (.responseLength 0x02#8) := by decide +kernel

/-- A table row's bits, bit 0 the least significant bit of the first byte; bytes above are zero. -/
theorem test_decodeTableWord :
    decodeTableWord 8 0x00 = some (.checkStatus (List.replicate 5 0x00#8)) ∧
    decodeTableWord 8 0x01 = some (.writeMemoryRegion (.full 0#32 [0x00#8])) ∧
    decodeTableWord 8 0x02 = some (.readMemoryRegion (.full 0#32 0x00#8 [])) ∧
    decodeTableWord 8 0x03 = some (.readMemoryRegionData (List.replicate 5 0x00#8)) ∧
    decodeTableWord 8 0x04 = none ∧
    decodeTableWord 24 0x341202 = some (.readMemoryRegion (.full 0x12340000#32 0x00#8 [])) := by decide

/-- `encode` writes the formats (95_test_vectors.md sections 1.5, 1.6). -/
theorem test_encode :
    encode (.writeMemoryRegion (.full 0x00001000#32 [0x11#8, 0x22#8, 0x33#8])) =
      [0x01#8, 0x00#8, 0x00#8, 0x10#8, 0x00#8, 0x11#8, 0x22#8, 0x33#8] ∧
    encode (.rspOkWithChecksum 0x78333135#32) = [0x01#8, 0x35#8, 0x31#8, 0x33#8, 0x78#8] := by decide

/-! ### Checksum (95_test_vectors.md sections 1.2, 2.1, 2.2, 2.3) -/

theorem test_csum :
    csum 0x12345678#32 [0x01#8, 0x00#8, 0x00#8, 0x10#8, 0x00#8, 0x11#8, 0x22#8, 0x33#8] =
      0x78333135#32 ∧
    csum 0x12345678#32 [0x01#8, 0x00#8, 0x00#8] = 0x68ACF064#32 ∧
    csum 0xFFFFFFFF#32 [0xFF#8, 0xFF#8] = 0xFFFFF8F8#32 ∧
    csum 0x12345678#32 [0x01#8, 0xFF#8, 0xFF#8, 0xFF#8, 0xFF#8, 0xAA#8, 0xBB#8] = 0xCF77F2A1#32 ∧
    csum 0x12345678#32 (0xAB#8 :: List.replicate 31 0x00#8 ++ [0xCD#8]) = 0x91A2B3A6#32 ∧
    csumStep 0x00000000#32 0x80#8 = 0x00000080#32 := by decide +kernel

/-- The numeric codes of 60_exceptions.md rule R201. -/
theorem test_codes :
    [Result.ok, .err .handshakeTimeout, .err .byteTimeout, .err .invalidLength].map Result.code =
      [0, 1, 2, 3] := by decide

/-! ### The link operations (95_test_vectors.md sections 3.2, 3.3) -/

/-- S1: a miss, a match; five transfers. -/
theorem test_send_S1 :
    let e := sendPacket (hostP 20 1 1)
      (leWith [0x00#8] (byteYields [0x00#8, 0x55#8, 0x11#8, 0x22#8, 0x33#8]))
    sent e = [0x55#8, 0x55#8, 0x55#8, 0x00#8, 0x00#8] ∧ e.result = .ok ∧ e.acc = 0x91A2B3C0#32 ∧
      e.hsCnt = 2 := by decide

/-- S5: a timeout at payload byte 2: the byte is transmitted but not folded. -/
theorem test_send_S5 :
    let e := sendPacket (hostP 20 1 1) (leWith [0x01#8, 0x02#8, 0x03#8]
      (byteYields [0x55#8, 0x00#8, 0x00#8, 0x00#8, 0x00#8] ++ [.timeout]))
    sent e = [0x55#8, 0x55#8, 0x02#8, 0x01#8, 0x02#8, 0x03#8] ∧ e.result = .err .byteTimeout ∧
      e.acc = 0x8D159E0E#32 := by decide

/-- R1: a packet of 5 bytes; the fill bytes are the index. -/
theorem test_receive_R1 :
    let e := receivePacket (hostP 20 1 1) (leWith []
      (byteYields [0x00#8, 0xAA#8, 0x99#8, 0x04#8, 0x01#8, 0x11#8, 0x22#8, 0x33#8, 0x44#8]))
    sent e = [0x00#8, 0x00#8, 0xAA#8, 0x00#8, 0x00#8, 0x01#8, 0x02#8, 0x03#8, 0x04#8] ∧
      e.result = .ok ∧ e.rxPacket = [0x01#8, 0x11#8, 0x22#8, 0x33#8, 0x44#8] ∧
      e.acc = 0x2B3C3246#32 ∧ e.hsCnt = 2 := by decide

/-- R3: the search never matches and is bounded. -/
theorem test_receive_R3 :
    let e := receivePacket (targetP 4 1 1)
      (leWith [] (byteYields [0xAA#8, 0xAA#8, 0x00#8, 0xAA#8, 0x55#8]))
    sent e = [0x00#8, 0x00#8, 0x00#8, 0x00#8] ∧ e.result = .err .handshakeTimeout ∧ e.hsCnt = 4 := by
  decide

/-- L3 by the step table: the aligned link delivers [00] in five pairs. -/
theorem test_pairs_L3 :
    let x := lePairs (hostP 20 1 2) (targetP 20 1 2) 5
      (startSend (hostP 20 1 2) (leWith [0x00#8] []), startReceive (targetP 20 1 2) (leWith [] []))
    x.1.result = .ok ∧ x.2.result = .ok ∧ x.2.rxPacket = [0x00#8] ∧ x.2.acc = 0x91A2B3C0#32 ∧
      x.1.state = .idle ∧ x.2.state = .idle := by decide

/-! ### One test or two for each instruction -/

/-- CHECK_STATUS in `DISPATCH` (95_test_vectors.md sections 1.4, 3.2 S10): the ack's frame. -/
theorem test_checkStatus :
    (after (exec (.checkStatus []) (atCd .dispatch [0x00#8] (byteYields (sends 5))))).map
        (fun t => (sent t.target.eng, t.target.cd, t.target.eng.result)) =
      some ([0xAA#8, 0xAA#8, 0x04#8, 0x01#8, 0xC0#8, 0xB3#8, 0xA2#8, 0x91#8], .awaitCmd, .ok) := by
  decide

/-- CHECK_STATUS as a read's confirmation (T9): UnexpectedCommand. -/
theorem test_checkStatus_mismatch :
    (after (exec (.checkStatus []) (atRConf [0x02#8, 0x5A#8] [0x00#8] (byteYields (sends 1))))).map
        (fun t => (sent t.target.eng, t.target.cd)) =
      some ([0xAA#8, 0xAA#8, 0x00#8, 0x00#8], .awaitCmd) := by decide

/-- WRITE_MEMORY_REGION across the top of the address space (T6): checksum DDFDC02F. -/
theorem test_write_wraps :
    (after (exec (.writeMemoryRegion (.full 0xFFFFFFFE#32 [0x01#8, 0x02#8, 0x03#8, 0x04#8]))
      (atCd .dispatch
        [0x01#8, 0xFF#8, 0xFF#8, 0xFF#8, 0xFE#8, 0x01#8, 0x02#8, 0x03#8, 0x04#8]
        (byteYields (sends 5))))).map
        (fun t => (sent t.target.eng, t.mem, t.target.cd)) =
      some ([0xAA#8, 0xAA#8, 0x04#8, 0x01#8, 0x2F#8, 0xC0#8, 0xFD#8, 0xDD#8],
        [(0, 0x03#8), (1, 0x04#8), (0xFFFFFFFE, 0x01#8), (0xFFFFFFFF, 0x02#8)], .wConf) := by decide

/-- WRITE_MEMORY_REGION whose ack is lost (60_exceptions.md rule R207): no memory access. -/
theorem test_write_abandoned :
    (after (exec (.writeMemoryRegion (.full 0x00001000#32 [0x11#8]))
      (atCd .dispatch [0x01#8, 0x00#8, 0x00#8, 0x10#8, 0x00#8, 0x11#8] []))).map
        (fun t => (t.mem, t.target.cd, t.target.eng.result)) =
      some ([], .awaitCmd, .err .byteTimeout) := by decide

/-- READ_MEMORY_REGION (T7): the ack carries 59E140D2, four bytes are read into `TX_BUF`. -/
theorem test_read :
    (after (exec (.readMemoryRegion (.full 0x00002000#32 0x03#8 []))
      { atCd .dispatch [0x02#8, 0x00#8, 0x00#8, 0x20#8, 0x00#8, 0x03#8] (byteYields (sends 5)) with
        mem := [(0x2000, 0xDE#8), (0x2001, 0xAD#8), (0x2002, 0xBE#8), (0x2003, 0xEF#8)] })).map
        (fun t => (sent t.target.eng, t.target.eng.txPacket, t.target.cd)) =
      some ([0xAA#8, 0xAA#8, 0x04#8, 0x01#8, 0xD2#8, 0x40#8, 0xE1#8, 0x59#8],
        [0x02#8, 0xDE#8, 0xAD#8, 0xBE#8, 0xEF#8], .rConf) := by decide

/-- READ_MEMORY_REGION too short (T14): ack 2B3C281A, then `AWAIT_CMD`. -/
theorem test_read_short :
    (after (exec (.readMemoryRegion (.short [0x00#8, 0x00#8, 0x20#8, 0x00#8]))
      (atCd .dispatch [0x02#8, 0x00#8, 0x00#8, 0x20#8, 0x00#8] (byteYields (sends 5))))).map
        (fun t => (sent t.target.eng, t.target.cd)) =
      some ([0xAA#8, 0xAA#8, 0x04#8, 0x01#8, 0x1A#8, 0x28#8, 0x3C#8, 0x2B#8], .awaitCmd) := by decide

/-- READ_MEMORY_REGION_DATA in `R_CONF` (T7): the data reply as phase 1 built it. -/
theorem test_readData :
    (after (exec (.readMemoryRegionData [])
      (atRConf [0x02#8, 0xDE#8, 0xAD#8, 0xBE#8, 0xEF#8] [0x03#8] (byteYields (sends 5))))).map
        (fun t => (sent t.target.eng, t.target.cd)) =
      some ([0xAA#8, 0xAA#8, 0x04#8, 0x02#8, 0xDE#8, 0xAD#8, 0xBE#8, 0xEF#8], .awaitCmd) := by decide

/-- READ_MEMORY_REGION_DATA in `DISPATCH` (T12): silence. -/
theorem test_readData_unknown :
    (after (exec (.readMemoryRegionData []) (atCd .dispatch [0x03#8] (byteYields (sends 5))))).map
        (fun t => (sent t.target.eng, t.target.cd)) = some ([], .awaitCmd) := by decide

/-- RSP_UNEXPECTED_COMMAND goes upstream as an ordinary reply (60_exceptions.md rule R205). -/
theorem test_rspUnexpected :
    (after (exec .rspUnexpectedCommand (atXo .recv [0x00#8] []))).map
        (fun t => (t.host.eng.port.trace, t.host.xo)) =
      some ([.respond (.ok 1 [0x00#8] 0x91A2B3C0#32)], .idle) := by decide

/-- RSP_OK_WITH_CHECKSUM (T1). -/
theorem test_rspOk :
    (after (exec (.rspOkWithChecksum 0x91A2B3C0#32)
      (atXo .recv [0x01#8, 0xC0#8, 0xB3#8, 0xA2#8, 0x91#8] []))).map
        (fun t => (t.host.eng.port.trace, t.host.xo)) =
      some ([.respond (.ok 5 [0x01#8, 0xC0#8, 0xB3#8, 0xA2#8, 0x91#8] 0x91A2B3C0#32)], .idle) := by
  decide

/-- RSP_READ_MEMORY_REGION_DATA (95_test_vectors.md section 1.6). -/
theorem test_rspData :
    (after (exec (.rspReadMemoryRegionData [0xDE#8, 0xAD#8, 0xBE#8, 0xEF#8])
      (atXo .recv [0x02#8, 0xDE#8, 0xAD#8, 0xBE#8, 0xEF#8] []))).map
        (fun t => (t.host.eng.port.trace, t.host.xo)) =
      some ([.respond (.ok 5 [0x02#8, 0xDE#8, 0xAD#8, 0xBE#8, 0xEF#8] 0x91A2B3C0#32)], .idle) := by
  decide

/-! ### The step -/

/-- T11: an unknown opcode is received and answered with silence. -/
theorem test_step_unknown :
    (after (step (listeningAt .awaitCmd (byteYields (frameIn [0x7F#8]))))).map
        (fun t => (sent t.target.eng, t.target.cd, t.target.cmd)) =
      some ([0x00#8, 0x55#8, 0x00#8, 0x00#8], .awaitCmd, 0x7F#8) := by decide

/-- A write command received and run in one step (95_test_vectors.md section 1.5). -/
theorem test_step_write :
    (after (step (listeningAt .awaitCmd (byteYields
      (frameIn [0x01#8, 0x00#8, 0x00#8, 0x10#8, 0x00#8, 0x11#8] ++ sends 5))))).map
        (fun t => (t.mem, t.target.cd)) = some ([(0x1000, 0x11#8)], .wConf) := by decide

/-- A table row's packet runs as the first instruction after reset. -/
theorem test_withFetchWord :
    (after (step (base.withFetchWord 8 0x00))).map (fun t => (t.target.cmd, t.target.cmdLen)) =
      some (0x00#8, 6) := by decide

/-! ### Witnesses: concrete operands that meet the hypotheses of each obligation, in its order -/

/-- The range 1..256 at both ends, and lengths on either side of it. -/
theorem test_witness_LengthByteRoundTrip :
    (1 ≤ 1 ∧ 1 ≤ 256) ∧ (1 ≤ 256 ∧ 256 ≤ 256) ∧ cfg.host.inRange = true ∧
    (leWith [] []).state = .idle ∧ (leWith [] []).txLen < 1 ∧
    ({ leWith [] [] with txLen := 257 } : Engine).state = .idle ∧
    256 < ({ leWith [] [] with txLen := 257 } : Engine).txLen := by decide

theorem test_witness_CsumStepBits : 0 < 32 ∧ 7 < 32 ∧ 8 < 32 ∧ 31 < 32 := by decide

/-- One pair of bytes 1 apart, one 32 apart. -/
theorem test_witness_CsumSwapDetected :
    ((0 : Nat) < 1 ∧ 1 < [0x01#8, 0x02#8].length ∧ [0x01#8, 0x02#8][0] ≠ [0x01#8, 0x02#8][1]) ∧
    ((0 : Nat) < 32 ∧ 32 < (0xAB#8 :: (List.replicate 31 0x00#8 ++ [0xCD#8])).length) ∧
    (0xAB#8 :: (List.replicate 31 0x00#8 ++ [0xCD#8])).getD 0 0x00#8 ≠
      (0xAB#8 :: (List.replicate 31 0x00#8 ++ [0xCD#8])).getD 32 0x00#8 := by decide

theorem test_witness_CopyAddressesWrap : base.cfg.inRange = true ∧ base.target.j = 0 := by decide

/-- A packet of 1 byte, and one of 256. -/
theorem test_witness_SendPacketSucceeds :
    (1 ≤ (leWith [0x00#8] (byteYields (sends 1))).txLen ∧
      (leWith [0x00#8] (byteYields (sends 1))).txLen ≤ 256 ∧
      AnswersSend (targetP 20 1 1) (leWith [0x00#8] (byteYields (sends 1))).txLen (sends 1) ∧
      (leWith [0x00#8] (byteYields (sends 1))).port.inbox = byteYields (sends 1) ++ []) ∧
    AnswersSend (targetP 20 1 1) 256 (sends 256) :=
  ⟨⟨by decide, by decide, answersSend_clean (by decide) (by decide) (by decide), by simp [leWith]⟩,
    answersSend_clean (by decide) (by decide) (by rw [List.length_replicate]; rfl)⟩

/-- A match on the last allowed attempt (S3). -/
theorem test_witness_AnswersSend_late :
    AnswersSend (hostP 3 1 1) 1 [0xAA#8, 0x00#8, 0x55#8, 0x01#8, 0x02#8, 0x03#8] :=
  ⟨by decide, by decide, [0xAA#8, 0x00#8], [0x01#8, 0x02#8, 0x03#8], rfl, by decide, by decide, rfl⟩

theorem test_witness_ReceivePacketDelivers :
    AnswersReceive (targetP 20 1 1) [0x00#8] (frameIn [0x00#8]) ∧
    (leWith [] (byteYields (frameIn [0x00#8]))).port.inbox = byteYields (frameIn [0x00#8]) ++ [] ∧
    AnswersReceive (targetP 20 1 1) (List.replicate 256 0x00#8)
      (frameIn (List.replicate 256 0x00#8)) :=
  ⟨answersReceive_clean (by decide) rfl (by decide) (by decide), by simp [leWith],
    answersReceive_clean (by decide) rfl (by rw [List.length_replicate]; decide) (by rw [List.length_replicate])⟩

/-- Each way a SendPacket ends: S1, S2, S4, S8. -/
theorem test_witness_SendPacketEnds :
    (sendPacket (targetP 20 1 1) (leWith [0x00#8] (byteYields (sends 1)))).result = .ok ∧
    (sendPacket (hostP 3 1 1) (leWith [0x00#8] (byteYields [0x00#8, 0x00#8, 0x00#8]))).result =
      .err .handshakeTimeout ∧
    (sendPacket (hostP 20 1 1) (leWith [0x00#8] (byteYields [0x00#8]))).result =
      .err .byteTimeout ∧
    (sendPacket (hostP 20 1 1) (leWith [] [])).result = .err .invalidLength ∧
    (leWith [] []).state.receiving = false := by decide

theorem test_witness_ReceivePacketEnds :
    (receivePacket (targetP 20 1 1) (leWith [] (byteYields (frameIn [0x00#8])))).result = .ok ∧
    (receivePacket (targetP 20 1 1) (leWith [] [])).result = .err .byteTimeout := by decide

theorem test_witness_TableAgrees :
    (targetP 1 0 1).inRange = true ∧ (leWith [] []).state = .idle := by decide

theorem test_witness_AlignedLinkDelivers :
    (leWith [0x00#8] []).state = .idle ∧ (leWith [] []).state = .idle ∧
    1 ≤ (leWith [0x00#8] []).txLen ∧ (leWith [0x00#8] []).txLen ≤ 256 ∧
    (hostP 20 1 2).hsSend = (targetP 20 1 2).hsRecv ∧ (hostP 20 1 2).hsSend ≠ 0x00#8 ∧
    (hostP 20 1 2).seed = (targetP 20 1 2).seed ∧ 2 ≤ (hostP 20 1 2).hsAttempts ∧
    (hostP 20 1 2).inRange = true ∧ (targetP 20 1 2).inRange = true ∧
    (targetP 20 1 2).recvEchoCount = (hostP 20 1 2).sendConfirmCount + 1 ∧
    (targetP 20 0 1).recvEchoCount = (hostP 20 0 1).sendConfirmCount + 1 := by decide

theorem test_witness_MisalignedLinkReadsConfirmation :
    (leWith [0x00#8] []).state = .idle ∧ (leWith [] []).state = .idle ∧
    1 ≤ (leWith [0x00#8] []).txLen ∧ (leWith [0x00#8] []).txLen ≤ 256 ∧
    cfg.host.hsSend = cfg.target.hsRecv ∧ cfg.host.hsSend ≠ 0x00#8 ∧ 2 ≤ cfg.host.hsAttempts ∧
    cfg.host.inRange = true ∧ cfg.target.inRange = true ∧ cfg.host.sendConfirmCount = 1 ∧
    cfg.target.recvEchoCount = 1 := by
  decide

/-- Both send (L10), both receive (L11), with equal and with unequal bounds. -/
theorem test_witness_RoleConfusionNeverLocks :
    1 ≤ (hostP 20 1 1).hsAttempts ∧ 1 ≤ (targetP 20 1 1).hsAttempts ∧ 1 ≤ (targetP 3 1 1).hsAttempts ∧
    (leWith [0x00#8] []).state = .idle ∧ (leWith [0x00#8] []).badLength (hostP 20 1 1) = false ∧
    (leWith [0x00#8] []).badLength (targetP 3 1 1) = false ∧
    (hostP 20 1 1).hsSend ≠ (targetP 3 1 1).hsSend ∧ (hostP 20 1 1).hsRecv ≠ 0x00#8 ∧
    (targetP 3 1 1).hsRecv ≠ 0x00#8 := by decide

theorem test_witness_DecodeOfEncode :
    (Instr.checkStatus []).wellFormed = true ∧
    (Instr.writeMemoryRegion (.short [0x00#8, 0x00#8, 0x00#8])).wellFormed = true ∧
    (Instr.readMemoryRegion (.full 0xFFFFFFFF#32 0xFF#8 [])).wellFormed = true ∧
    (Instr.readMemoryRegionData []).wellFormed = true ∧
    Instr.rspUnexpectedCommand.wellFormed = true ∧
    (Instr.rspOkWithChecksum 0#32).wellFormed = true ∧
    (Instr.rspReadMemoryRegionData [0x00#8]).wellFormed = true := by decide

/-- Direction changes what the same bytes are. -/
theorem test_witness_EncodeOfDecode :
    decode .h2t [0x00#8] = .ok (.checkStatus []) ∧ decode .t2h [0x00#8] = .ok .rspUnexpectedCommand := by
  decide

theorem test_witness_ReservedOpcodesRejected :
    ([] : List Byte).length ≤ 255 ∧ 4 ≤ (0x04#8).toNat ∧ 4 ≤ (0xFF#8).toNat ∧
    3 ≤ (0x03#8).toNat := by decide

theorem test_witness_RepliesDecode : 5 ≤ 5 ∧ 5 ≤ 256 := by decide

theorem test_witness_CheckStatus :
    ([] : List Byte).length ≤ 255 ∧
    (atCd .dispatch [0x00#8] (byteYields (sends 5))).target.eng.state = .idle ∧
    (atCd .dispatch [0x00#8] (byteYields (sends 5))).target.cd = .dispatch ∧
    AnswersSend (atCd .dispatch [0x00#8] (byteYields (sends 5))).cfg.target 5 (sends 5) ∧
    (atCd .dispatch [0x00#8] (byteYields (sends 5))).target.eng.port.inbox =
      byteYields (sends 5) ++ [] :=
  ⟨by decide, rfl, rfl, answersSend_clean (by decide) (by decide) (by decide), by simp [atCd, leHolding]⟩

/-- A received CHECK_STATUS of 1 byte, and one of 256, in `AWAIT_CMD` and in `W_CONF`. -/
theorem test_witness_received_checkStatus :
    (∀ cd ∈ [CdState.awaitCmd, .wConf], ∃ s : State, s.schedule = .byPacket ∧ s.turn = .responder ∧
      s.targetReset.headD false = false ∧ s.target.eng.state = .idle ∧ s.target.cd = cd ∧
      AnswersReceive s.cfg.target [0x00#8] (frameIn [0x00#8]) ∧
      AnswersSend s.cfg.target 5 (sends 5) ∧
      s.target.eng.port.inbox = byteYields (frameIn [0x00#8]) ++ (byteYields (sends 5) ++ [])) ∧
    AnswersReceive cfg.target (List.replicate 256 0x00#8) (frameIn (List.replicate 256 0x00#8)) :=
  ⟨fun cd _ => ⟨listeningAt cd (byteYields (frameIn [0x00#8]) ++ (byteYields (sends 5) ++ [])),
      rfl, rfl, rfl, rfl, rfl,
      answersReceive_clean (p := cfg.target) (by decide) rfl (by decide) (by decide),
      answersSend_clean (p := cfg.target) (by decide) (by decide) (by decide), rfl⟩,
    answersReceive_clean (by decide) rfl (by rw [List.length_replicate]; decide)
      (by rw [List.length_replicate])⟩

/-- A full write: 0 and 251 data bytes are the ends of its range; memory canonical, no other agent. -/
theorem test_witness_WriteMemoryRegionCompletes :
    ([] : List Byte).length ≤ 251 ∧ (List.replicate 251 0x00#8).length ≤ 251 ∧
    cfg.inRange = true ∧
    Memory.wf (atCd .dispatch [0x01#8, 0x00#8, 0x00#8, 0x10#8, 0x00#8, 0x11#8]
      (byteYields (sends 5))).mem = true ∧
    (atCd .dispatch [0x01#8, 0x00#8, 0x00#8, 0x10#8, 0x00#8, 0x11#8]
      (byteYields (sends 5))).target.eng.state = .idle ∧
    (atCd .dispatch [0x01#8, 0x00#8, 0x00#8, 0x10#8, 0x00#8, 0x11#8]
      (byteYields (sends 5))).target.cd = .dispatch ∧
    AnswersSend cfg.target 5 (sends 5) ∧
    (atCd .dispatch [0x01#8, 0x00#8, 0x00#8, 0x10#8, 0x00#8, 0x11#8]
      (byteYields (sends 5))).target.eng.port.inbox = byteYields (sends 5) ++ [] ∧
    Undisturbed base.otherStores ∧ OutsideCopy 0x00001000#32 1 0x1001 ∧
    OutsideStores (base.otherStores.take 1) 0x1001 :=
  ⟨by decide, by rw [List.length_replicate], by decide, rfl, rfl, rfl, answersSend_clean (by decide) (by decide) (by decide),
    by simp [atCd, leHolding], by simp [Undisturbed, base, State.resetWith],
    by intro j hj; interval_cases j; decide, by simp [OutsideStores, base, State.resetWith]⟩

theorem test_witness_ReadMemoryRegionCompletes :
    ([] : List Byte).length ≤ 250 ∧ cfg.inRange = true ∧
    (atCd .dispatch [0x02#8, 0x00#8, 0x00#8, 0x20#8, 0x00#8, 0x03#8]
      (byteYields (sends 5))).target.eng.state = .idle ∧
    (atCd .dispatch [0x02#8, 0x00#8, 0x00#8, 0x20#8, 0x00#8, 0x03#8]
      (byteYields (sends 5))).target.cd = .dispatch ∧
    AnswersSend cfg.target 5 (sends 5) ∧
    (atCd .dispatch [0x02#8, 0x00#8, 0x00#8, 0x20#8, 0x00#8, 0x03#8]
      (byteYields (sends 5))).target.eng.port.inbox = byteYields (sends 5) ++ [] ∧
    Undisturbed base.otherStores :=
  ⟨by decide, by decide, rfl, rfl, answersSend_clean (by decide) (by decide) (by decide), by simp [atCd, leHolding],
    by simp [Undisturbed, base, State.resetWith]⟩

/-- The longest short forms: 3 bytes of a write, 4 of a read. -/
theorem test_witness_ShortCommandsEndAfterAck :
    (atCd .dispatch [0x01#8, 0x00#8, 0x00#8] []).target.eng.state = .idle ∧
    (atCd .dispatch [0x01#8, 0x00#8, 0x00#8] []).target.cd = .dispatch ∧
    (List.replicate 3 0x00#8).length < 4 ∧ (List.replicate 4 0x00#8).length < 5 := by decide

theorem test_witness_AckFailureAbandons :
    (Instr.writeMemoryRegion (.full 0#32 [0x11#8])).wellFormed = true ∧
    (Instr.readMemoryRegion (.full 0#32 0x00#8 [])).wellFormed = true ∧
    (atCd .dispatch [0x01#8] []).target.eng.state = .idle ∧
    (atCd .dispatch [0x01#8] []).target.cd = .dispatch ∧
    (sendPacket cfg.target (atCd .dispatch [0x01#8] []).target.makeAck.eng).result ≠ .ok := by decide

/-- A data reply of 2 bytes, and (the next witness) one of 257. -/
theorem test_witness_ReadDataConfirmationReplies :
    ([] : List Byte).length ≤ 255 ∧
    (atRConf [0x02#8, 0x5A#8] [0x03#8] (byteYields (sends 2))).target.eng.state = .idle ∧
    (atRConf [0x02#8, 0x5A#8] [0x03#8] (byteYields (sends 2))).target.cd = .rConf ∧
    1 ≤ (atRConf [0x02#8, 0x5A#8] [0x03#8] (byteYields (sends 2))).target.eng.txLen ∧
    (atRConf [0x02#8, 0x5A#8] [0x03#8] (byteYields (sends 2))).target.eng.txLen ≤ 256 ∧
    AnswersSend cfg.target
      (atRConf [0x02#8, 0x5A#8] [0x03#8] (byteYields (sends 2))).target.eng.txLen (sends 2) ∧
    (atRConf [0x02#8, 0x5A#8] [0x03#8] (byteYields (sends 2))).target.eng.port.inbox =
      byteYields (sends 2) ++ [] :=
  ⟨by decide, rfl, rfl, by decide, by decide, answersSend_clean (by decide) (by decide) (by decide),
    by simp [atRConf, atCd, leHolding, State.onTarget, Engine.stage]⟩

theorem test_witness_Read256IsNeverSent :
    ([] : List Byte).length ≤ 255 ∧ (atCd .rConf [0x03#8] []).cfg.inRange = true ∧
    ((atCd .rConf [0x03#8] []).onTarget
      (·.onEng fun e => { e with txLen := 257 })).target.eng.state = .idle ∧
    ((atCd .rConf [0x03#8] []).onTarget
      (·.onEng fun e => { e with txLen := 257 })).target.cd = .rConf ∧
    ((atCd .rConf [0x03#8] []).onTarget
      (·.onEng fun e => { e with txLen := 257 })).target.eng.txLen = 257 := by decide

theorem test_witness_UnknownOpcodeIsSilent :
    (atCd .dispatch [0x03#8] []).target.cd = .dispatch ∧
    (atCd .dispatch [0x03#8] []).target.eng.state = .idle ∧ ([] : List Byte).length ≤ 255 := by decide

theorem test_witness_WriteConfirmationReplies :
    ([] : List Byte).length ≤ 255 ∧
    (atCd .wConf [0x00#8] (byteYields (sends 5))).target.eng.state = .idle ∧
    (atCd .wConf [0x00#8] (byteYields (sends 5))).target.cd = .wConf ∧
    AnswersSend cfg.target 5 (sends 5) ∧
    (atCd .wConf [0x00#8] (byteYields (sends 5))).target.eng.port.inbox =
      byteYields (sends 5) ++ [] :=
  ⟨by decide, rfl, rfl, answersSend_clean (by decide) (by decide) (by decide), by simp [atCd, leHolding]⟩

/-- A mismatch in `W_CONF` and one in `R_CONF`. -/
theorem test_witness_MismatchGetsUnexpected :
    (atCd .wConf [0x01#8] (byteYields (sends 1))).target.eng.state = .idle ∧
    AnswersSend cfg.target 1 (sends 1) ∧
    (atCd .wConf [0x01#8] (byteYields (sends 1))).target.eng.port.inbox =
      byteYields (sends 1) ++ [] ∧
    ((atCd .wConf [0x01#8] (byteYields (sends 1))).target.cd = .wConf ∧ 0x01#8 ≠ 0x00#8) ∧
    ((atCd .rConf [0x00#8] (byteYields (sends 1))).target.cd = .rConf ∧ 0x00#8 ≠ 0x03#8) ∧
    (Instr.writeMemoryRegion (.short [])).direction = .h2t ∧
    (Instr.writeMemoryRegion (.short [])).wellFormed = true ∧
    (Instr.writeMemoryRegion (.short [])).opcode = 0x01#8 :=
  ⟨rfl, answersSend_clean (by decide) (by decide) (by decide), by simp [atCd, leHolding], by decide, by decide,
    rfl, rfl, rfl⟩

theorem test_witness_ConfirmationReadsByteZero :
    (Instr.checkStatus []).direction = .h2t ∧ (Instr.checkStatus [0x55#8]).direction = .h2t ∧
    (Instr.checkStatus []).wellFormed = true ∧ (Instr.checkStatus [0x55#8]).wellFormed = true ∧
    (Instr.checkStatus []).opcode = (Instr.checkStatus [0x55#8]).opcode ∧
    (atCd .wConf [0x00#8] []).target.cd = .wConf ∧ (atCd .rConf [0x00#8] []).target.cd = .rConf := by
  decide

/-- A command that runs in `DISPATCH`, one that changes memory, one that is a confirmation. -/
theorem test_witness_CommandFrame :
    (Instr.checkStatus []).direction = .h2t ∧
    (after (exec (.checkStatus []) (atCd .dispatch [0x00#8] []))).isSome = true ∧
    (after (exec (.writeMemoryRegion (.full 0#32 [0x11#8]))
      (atCd .dispatch [0x01#8] (byteYields (sends 5))))).isSome = true ∧
    (after (exec (.checkStatus []) (atCd .wConf [0x00#8] []))).isSome = true ∧
    (atCd .wConf [0x00#8] []).target.cd ≠ .dispatch := by decide

/-- A state and an instruction for each clause. -/
theorem test_witness_NothingRunsUndelivered :
    (Instr.rspReadMemoryRegionData []).wellFormed = false ∧
    (Instr.checkStatus []).wellFormed = true ∧ (Instr.checkStatus []).direction = .h2t ∧
    ((atCd .dispatch [] []).onTarget (·.onEng (startReceive cfg.target))).target.eng.state ≠ .idle ∧
    (base.target.eng.state = .idle ∧ base.target.cd ≠ .dispatch ∧ base.target.cd ≠ .wConf ∧
      base.target.cd ≠ .rConf) ∧
    Instr.rspUnexpectedCommand.wellFormed = true ∧ Instr.rspUnexpectedCommand.direction = .t2h ∧
    ((atXo .recv [] []).onHost (·.onEng (startReceive cfg.host))).host.eng.state ≠ .idle ∧
    (base.host.eng.state = .idle ∧ base.host.xo ≠ .recv) := by decide

/-- Data of 1 and of 255 bytes. -/
theorem test_witness_ResponsesGoUpstream :
    (atXo .recv [0x00#8] []).host.eng.state = .idle ∧ (atXo .recv [0x00#8] []).host.xo = .recv ∧
    1 ≤ [0x00#8].length ∧ [0x00#8].length ≤ 255 ∧ (List.replicate 255 0x00#8).length ≤ 255 :=
  ⟨rfl, rfl, by decide, by decide, by rw [List.length_replicate]⟩

theorem test_witness_StepRunsDispatchedPacket :
    (atCd .dispatch [0x00#8] []).schedule = .byPacket ∧
    (atCd .dispatch [0x00#8] []).turn = .responder ∧
    (atCd .dispatch [0x00#8] []).targetReset.headD false = false ∧
    (atCd .dispatch [0x00#8] []).target.eng.state = .idle ∧
    (atCd .dispatch [0x00#8] []).target.cd = .dispatch ∧
    decode .h2t (atCd .dispatch [0x00#8] []).target.packet = .ok (.checkStatus []) := by decide

/-- In `AWAIT_CMD`, `W_CONF` and `R_CONF`. -/
theorem test_witness_StepFetchesAndRuns :
    (listeningAt .awaitCmd (byteYields (frameIn [0x00#8]))).schedule = .byPacket ∧
    (listeningAt .awaitCmd (byteYields (frameIn [0x00#8]))).turn = .responder ∧
    (listeningAt .awaitCmd (byteYields (frameIn [0x00#8]))).targetReset.headD false = false ∧
    (listeningAt .awaitCmd (byteYields (frameIn [0x00#8]))).target.eng.state = .idle ∧
    (listeningAt .awaitCmd (byteYields (frameIn [0x00#8]))).target.cd.listening = true ∧
    (listeningAt .wConf []).target.cd.listening = true ∧
    (listeningAt .rConf []).target.cd.listening = true ∧
    AnswersReceive cfg.target [0x00#8] (frameIn [0x00#8]) ∧
    (listeningAt .awaitCmd (byteYields (frameIn [0x00#8]))).target.eng.port.inbox =
      byteYields (frameIn [0x00#8]) ++ [] ∧
    decode .h2t [0x00#8] = .ok (.checkStatus []) :=
  ⟨rfl, rfl, rfl, rfl, rfl, rfl, rfl, answersReceive_clean (by decide) rfl (by decide) (by decide),
    by simp [listeningAt, leWith], rfl⟩

theorem test_witness_StepReceivesAndRunsReply :
    (atXo .settle [] (byteYields (replyIn [0x00#8]))).schedule = .byPacket ∧
    (atXo .settle [] (byteYields (replyIn [0x00#8]))).turn = .sender ∧
    (atXo .settle [] (byteYields (replyIn [0x00#8]))).hostReset.headD false = false ∧
    (atXo .settle [] (byteYields (replyIn [0x00#8]))).host.eng.state = .idle ∧
    (atXo .settle [] (byteYields (replyIn [0x00#8]))).host.xo = .settle ∧
    (atXo .recv [] []).host.xo = .recv ∧
    AnswersReceive cfg.host [0x00#8] (replyIn [0x00#8]) ∧
    (atXo .settle [] (byteYields (replyIn [0x00#8]))).host.eng.port.inbox =
      byteYields (replyIn [0x00#8]) ++ [] ∧
    decode .t2h [0x00#8] = .ok .rspUnexpectedCommand :=
  ⟨rfl, rfl, rfl, rfl, rfl, rfl, answersReceive_clean (by decide) rfl (by decide) (by decide),
    by simp [atXo, leHolding], rfl⟩

/-- Opcodes at both ends of the reserved range. -/
theorem test_witness_StepOnReservedOpcode :
    (listeningAt .awaitCmd (byteYields (frameIn [0x04#8]))).schedule = .byPacket ∧
    (listeningAt .awaitCmd (byteYields (frameIn [0x04#8]))).turn = .responder ∧
    (listeningAt .awaitCmd (byteYields (frameIn [0x04#8]))).target.cd = .awaitCmd ∧
    (listeningAt .awaitCmd (byteYields (frameIn [0x04#8]))).target.eng.state = .idle ∧
    (listeningAt .awaitCmd (byteYields (frameIn [0x04#8]))).targetReset.headD false = false ∧
    AnswersReceive cfg.target [0x04#8] (frameIn [0x04#8]) ∧
    (listeningAt .awaitCmd (byteYields (frameIn [0x04#8]))).target.eng.port.inbox =
      byteYields (frameIn [0x04#8]) ++ [] ∧
    [0x04#8].head? = some 0x04#8 ∧ 4 ≤ (0x04#8).toNat ∧ 4 ≤ (0xFF#8).toNat :=
  ⟨rfl, rfl, rfl, rfl, rfl, answersReceive_clean (by decide) rfl (by decide) (by decide),
    by simp [listeningAt, leWith], rfl, by decide, by decide⟩

theorem test_witness_FailedReceiveKeepsListening :
    (listeningAt .wConf []).schedule = .byPacket ∧ (listeningAt .wConf []).turn = .responder ∧
    (listeningAt .wConf []).targetReset.headD false = false ∧
    (listeningAt .wConf []).target.eng.state = .idle ∧
    (listeningAt .wConf []).target.cd.listening = true ∧
    (receivePacket (listeningAt .wConf []).cfg.target (listeningAt .wConf []).target.eng).result ≠
      .ok := by decide

/-- The exchange of T1: the request [00], the ack it gets. -/
theorem test_witness_ExchangeSucceeds :
    ∃ s : State, s.schedule = .byPacket ∧ s.turn = .sender ∧ s.hostReset.headD false = false ∧
      s.host.eng.state = .idle ∧ s.host.xo = .idle ∧ s.requests = [0x00#8] :: [] ∧
      1 ≤ [0x00#8].length ∧ [0x00#8].length ≤ 256 ∧
      AnswersSend s.cfg.host [0x00#8].length (0x55#8 :: List.replicate 3 0x00#8) ∧
      AnswersReceive s.cfg.host [0x00#8] (replyIn [0x00#8]) ∧
      s.host.eng.port.inbox = byteYields (0x55#8 :: List.replicate 3 0x00#8) ++
        (byteYields (replyIn [0x00#8]) ++ []) :=
  ⟨requesting [0x00#8] (byteYields (0x55#8 :: List.replicate 3 0x00#8) ++
      (byteYields (replyIn [0x00#8]) ++ [])),
    rfl, rfl, rfl, rfl, rfl, rfl, by decide, by decide, answersSend_clean (by decide) (by decide) (by decide),
    answersReceive_clean (by decide) rfl (by decide) (by decide), rfl⟩

/-- Requests of 0 and of 257 bytes. -/
theorem test_witness_ExchangeRejectsLength :
    (requesting [] []).schedule = .byPacket ∧ (requesting [] []).turn = .sender ∧
    (requesting [] []).hostReset.headD false = false ∧ (requesting [] []).host.eng.state = .idle ∧
    (requesting [] []).host.xo = .idle ∧ (requesting [] []).requests = [] :: [] ∧
    (requesting [] []).cfg.inRange = true ∧
    ([] : List Byte).length = 0 ∧ 256 < (List.replicate 257 0x00#8).length :=
  ⟨rfl, rfl, rfl, rfl, rfl, rfl, by decide, rfl, by rw [List.length_replicate]; decide⟩

/-- An exchange that gets an answer, and one that gets none. -/
theorem test_witness_ExchangeAlwaysResponds :
    (after (step (requesting [0x00#8] (byteYields (0x55#8 :: List.replicate 3 0x00#8) ++
      byteYields (replyIn [0x00#8]))))).map (fun t => t.host.eng.port.trace.getLast?) =
      some (some (.respond (.ok 1 [0x00#8] 0x91A2B3C0#32))) ∧
    (after (step (requesting [0x00#8] []))).map (fun t => t.host.eng.port.trace.getLast?) =
      some (some (.respond (.err .byteTimeout))) ∧
    (sendPacket cfg.host ((requesting [0x00#8] []).host.begin cfg.host [0x00#8]).eng).result =
      .err .byteTimeout ∧
    (sendPacket cfg.host ((requesting [0x00#8] (byteYields (0x55#8 :: List.replicate 3 0x00#8))).host.begin
      cfg.host [0x00#8]).eng).result = .ok ∧
    (receivePacket cfg.host (sendPacket cfg.host ((requesting [0x00#8]
      (byteYields (0x55#8 :: List.replicate 3 0x00#8))).host.begin cfg.host [0x00#8]).eng)).result =
      .err .byteTimeout := by decide

theorem test_witness_IdleSenderWaits :
    ({ base with turn := .sender } : State).schedule = .byPacket ∧
    ({ base with turn := .sender, schedule := .byPort } : State).schedule = .byPort ∧
    ({ base with turn := .sender } : State).hostReset.headD false = false ∧
    base.host.eng.state = .idle ∧ base.host.xo = .idle ∧ base.requests = [] := by decide

/-- A state for each clause with the LE idle, `CMD_LEN` on either side of each bound, a `TX_LEN` on
either side of its range. -/
theorem test_witness_CdLocalTransitions :
    base.target.cd.listening = true ∧ (atCd .dispatch [0x00#8] []).target.cd = .dispatch ∧
    (atCd .wDecode (List.replicate 4 0x01#8) []).target.cd = .wDecode ∧
    (atCd .wDecode (List.replicate 4 0x01#8) []).target.cmdLen < 5 ∧
    (atCd .wDecode (List.replicate 5 0x01#8) []).target.cmdLen = 5 ∧
    (atCd .wDecode (List.replicate 6 0x01#8) []).target.cmdLen = 6 ∧
    (atCd .rDecode (List.replicate 5 0x02#8) []).target.cd = .rDecode ∧
    (atCd .rDecode (List.replicate 5 0x02#8) []).target.cmdLen < 6 ∧
    (atCd .rDecode (List.replicate 6 0x02#8) []).target.cmdLen = 6 ∧
    (∀ cd ∈ [CdState.csAck, .wAck, .rAck, .wReply, .rReply],
      (atCd cd [0x00#8] []).target.cd.replying = true ∧
      (atCd cd [0x00#8] []).target.eng.state = .idle ∧
      (atCd cd [0x00#8] []).target.eng.txLen < 1 ∧
      1 ≤ (atCd cd [0x00#8] []).target.makeAck.eng.txLen ∧
      (atCd cd [0x00#8] []).target.makeAck.eng.txLen ≤ cfg.target.pktMax) := by decide

/-- What the transitions do at the bounds of `CMD_LEN`. -/
theorem test_decode_bounds :
    (atCd .wDecode (List.replicate 4 0x01#8) []).targetLocal.target.cd = .awaitCmd ∧
    (atCd .wDecode (List.replicate 5 0x01#8) []).targetLocal.target.cd = .wConf ∧
    (atCd .wDecode (List.replicate 6 0x01#8) []).targetLocal.target.cd = .wCopy ∧
    (atCd .rDecode (List.replicate 5 0x02#8) []).targetLocal.target.cd = .awaitCmd ∧
    (atCd .rDecode (List.replicate 6 0x02#8) []).targetLocal.target.cd = .rCopy := by decide

/-- A state for each clause with the LE busy: an operation that goes on, one that ends `OK`, one that
fails. -/
theorem test_witness_CdEnded :
    (∀ cd ∈ [CdState.awaitCmd, .wConf, .rConf, .csAck, .wAck, .rAck, .wReply, .rReply],
      ∃ s : State, s.target.cd = cd ∧ s.target.eng.state ≠ .idle ∧
        (s.target.eng.consume.onYield s.cfg.target s.target.eng.answer).state = .idle ∧
        (s.target.eng.consume.onYield s.cfg.target s.target.eng.answer).result = .ok) ∧
    (∀ cd : CdState, ∃ s : State, s.target.cd = cd ∧ s.target.eng.state ≠ .idle ∧
        (s.target.eng.consume.onYield s.cfg.target s.target.eng.answer).state = .idle ∧
        (s.target.eng.consume.onYield s.cfg.target s.target.eng.answer).result ≠ .ok) ∧
    ∃ s : State, s.target.eng.state ≠ .idle ∧
      (s.target.eng.consume.onYield s.cfg.target s.target.eng.answer).state ≠ .idle :=
  ⟨fun cd _ => ⟨(atCd cd [0x00#8] [.byte 0x00#8]).onTarget
      (·.onEng fun e => { e with state := .sPay, txLen := 1 }), rfl,
      (by decide : LeState.sPay ≠ .idle), rfl, rfl⟩,
    fun cd => ⟨(atCd cd [0x00#8] []).onTarget (·.onEng fun e => { e with state := .sPay }),
      rfl, (by decide : LeState.sPay ≠ .idle), rfl, (by decide : Result.err .byteTimeout ≠ .ok)⟩,
    ⟨(atCd .awaitCmd [] [.byte 0x00#8]).onTarget (·.onEng (startReceive cfg.target)),
      by decide, by decide⟩⟩

/-- A Responder in a copy with a byte left, and one in no copy. -/
theorem test_witness_MemoryOnlyInCopyStates :
    base.target.cd ≠ .wCopy ∧ base.target.cd ≠ .rCopy ∧
    ((atCd .wCopy [] []).onTarget fun r => { r with cnt := 1 }).target.eng.state = .idle ∧
    ((atCd .wCopy [] []).onTarget fun r => { r with cnt := 1 }).target.cd = .wCopy ∧
    ((atCd .wCopy [] []).onTarget fun r => { r with cnt := 1 }).target.j <
      ((atCd .wCopy [] []).onTarget fun r => { r with cnt := 1 }).target.cnt ∧
    ((atCd .rCopy [] []).onTarget fun r => { r with cnt := 1 }).target.cd = .rCopy := by decide

/-- States that meet the invariant, at rest and inside a transaction, and step on. -/
theorem test_witness_invariant :
    base.inv = true ∧ (after (step base)).isSome = true ∧
    (after base.targetPacket).isSome = true ∧
    (requesting [0x00#8] []).inv = true ∧ (after (requesting [0x00#8] []).hostPacket).isSome = true ∧
    (atCd .dispatch [0x00#8] []).inv = true ∧
    (atRConf [0x02#8, 0x5A#8] [0x03#8] []).inv = true ∧
    ({ base with schedule := .linked } : State).cfg.compatible = true ∧
    (after (step { base with schedule := .linked })).isSome = true := by decide

/-- The invariant says no of a Responder whose LE receives while the CD copies, of a Sender that takes
the Responder's free values, and of memory that lists an unlisted cell's value. -/
theorem test_invariant_refuses :
    ((atCd .wCopy [0x01#8] []).onTarget (·.onEng (startReceive cfg.target))).inv = false ∧
    (base.onHost (·.onEng fun e => { e with draws := 0 })).inv = false ∧
    ({ base with mem := [(0, 0x00#8)] } : State).inv = false ∧
    ({ base with mem := [(1, 0x01#8), (0, 0x01#8)] } : State).inv = false := by decide

theorem test_witness_PeersShareNothing :
    base.schedule ≠ .linked ∧ base.turn = .responder ∧ (after (step base)).isSome = true ∧
    (requesting [0x00#8] []).turn = .sender ∧
    (after (step (requesting [0x00#8] []))).isSome = true := by decide

theorem test_witness_LockstepNeedsCompatiblePeers :
    ({ base with schedule := .linked, cfg := { cfg with host := targetP 20 1 1 } } :
      State).schedule = .linked ∧
    ({ base with schedule := .linked, cfg := { cfg with host := targetP 20 1 1 } } :
      State).cfg.compatible = false := by decide

/-- Two linked peers, each with its LE in a ReceivePacket or at rest. -/
def linked (targetBusy hostBusy : Bool) : State :=
  let s := { base with schedule := .linked }
  let s := if targetBusy then s.onTarget (·.onEng (startReceive cfg.target)) else s
  if hostBusy then s.onHost fun h => (h.goto .recv).onEng (startReceive cfg.host) else s

/-- By packet; and linked, the other peer's LE busy and at rest. -/
theorem test_witness_ResetStep :
    ({ base with targetReset := [true] } : State).schedule ≠ .linked ∧
    ({ base with targetReset := [true] } : State).turn = .responder ∧
    ({ base with targetReset := [true] } : State).targetReset.headD false = true ∧
    ({ base with turn := .sender, hostReset := [true] } : State).turn = .sender ∧
    ({ base with turn := .sender, hostReset := [true] } : State).hostReset.headD false = true ∧
    (∀ b c, (linked b c).schedule = .linked ∧ (linked b c).cfg.compatible = true ∧
      (linked b c).cfg.channel = .lockstep ∧ (linked b c).hostReset.headD false = false) ∧
    (linked true true).host.eng.state ≠ .idle ∧ (linked true false).host.eng.state = .idle ∧
    (linked true true).target.eng.state ≠ .idle ∧ (linked false true).target.eng.state = .idle := by
  decide

/-- Linked, either reset asserted, the other peer's LE busy and at rest: a next state each. -/
theorem test_witness_ResetStep_linked :
    ∀ b c,
      ({ linked b c with targetReset := [true] } : State).schedule = .linked ∧
      ({ linked b c with targetReset := [true] } : State).cfg.compatible = true ∧
      ({ linked b c with targetReset := [true] } : State).targetReset.headD false = true ∧
      ({ linked b c with targetReset := [true] } : State).hostReset.headD false = false ∧
      (after (step { linked b c with targetReset := [true] })).isSome = true ∧
      ({ linked b c with hostReset := [true] } : State).schedule = .linked ∧
      ({ linked b c with hostReset := [true] } : State).cfg.compatible = true ∧
      ({ linked b c with hostReset := [true] } : State).hostReset.headD false = true ∧
      ({ linked b c with hostReset := [true] } : State).targetReset.headD false = false ∧
      (after (step { linked b c with hostReset := [true] })).isSome = true := by decide

/-- 70_reset_and_hazards.md rule R231: a reset of the Sender ends the Responder's operation with a link
error; the Responder listens on. -/
theorem test_host_reset_linked :
    (after (step { linked true true with hostReset := [true] })).map (fun t =>
      (t.host.eng.state, t.host.xo, t.target.eng.result, t.target.cd)) =
      some (.idle, .idle, .err .byteTimeout, .awaitCmd) := by decide

/-- 70_reset_and_hazards.md rule R231: a reset of the Responder ends the Sender's operation with a link
error, which goes upstream. -/
theorem test_reset_linked :
    (after (step { linked true true with targetReset := [true] })).map (fun t =>
      (t.target.eng.state, t.host.eng.result, t.host.xo, t.host.eng.port.trace.getLast?)) =
      some (.idle, .err .byteTimeout, .idle, some (.respond (.err .byteTimeout))) := by decide

/-- 70_reset_and_hazards.md rule R235: the Sender starts an exchange while the Responder is in reset; the
exchange fails. -/
theorem test_start_order :
    let s := { linked false false with
      targetReset := [true, true, true], requests := [[0x00#8]] }
    ((after (step s)).bind fun t => (after (step t)).bind fun t => after (step t)).map
      (fun t => (t.target.eng.state, t.host.xo, t.host.xoErr)) =
      some (.idle, .idle, .byteTimeout) := by decide

/-- Each pair of outstanding transfers, each draw, each pace. -/
theorem test_witness_LockstepPairsTransfers :
    (linked true true).cfg.channel = .paired none none ∧
    (linked true true).target.eng.state ≠ .idle ∧ (linked true true).host.eng.state ≠ .idle ∧
    base.noise = [] ∧ ({ base with noise := [.clean] } : State).noise = .clean :: [] ∧
    ({ base with noise := [.drop] } : State).noise = .drop :: [] ∧
    ({ base with noise := [.corrupt (some 0x01#8) none] } : State).noise =
      .corrupt (some 0x01#8) none :: [] ∧
    (linked true false).target.eng.state ≠ .idle ∧ (linked true false).host.eng.state = .idle ∧
    (linked true false).host.xo = .idle ∧ (linked true false).requests = [] ∧
    (linked false true).target.eng.state = .idle ∧ (linked false true).host.eng.state ≠ .idle ∧
    (linked false false).target.eng.state = .idle ∧ (linked false false).host.eng.state = .idle ∧
    (linked true false).pace.headD none = none ∧
    ({ base with pace := [some .responder] } : State).pace.headD none = some .responder ∧
    ({ base with pace := [some .sender] } : State).pace.headD none = some .sender := by decide

/-- 60_exceptions.md rule R219: an `Xfer` alone yields `Timeout` on the lockstep channel, a byte of the
idle line on a clock master's, what the script says on a free one. -/
theorem test_channels :
    ({ linked true false with pace := [some .responder] } : State).linkMove.target.eng.result =
      .err .byteTimeout ∧
    ({ linked true false with
      pace := [some .responder], cfg := { cfg with channel := .paired (some 0xFF#8) none } } :
      State).linkMove.target.eng.port.trace = [.xfer 0x00#8 (.byte 0xFF#8)] ∧
    (({ linked true true with cfg := { cfg with channel := .free } } : State).onTarget
      (·.onEng fun e => { e with port := { e.port with inbox := [.byte 0x07#8] } })
      ).linkMove.target.eng.port.trace = [.xfer 0x00#8 (.byte 0x07#8)] := by decide

end Sys2Proof.Tests
end

section
/-! SUPPORT. The configuration parameters under a step (00_scope.md rules R6, R7): what each operation of
the model leaves in `cfg`, one lemma an operation in the order of the model, then the two statements. -/

namespace Sys2Proof.Machine

/-- Whatever state an outcome goes on to, it has these parameters. -/
def NextHasCfg (c : LinkParams) (o : Host.Outcome State Fault Refusal) : Prop :=
  ∀ t, o = .next t → t.cfg = c

@[simp] theorem nextHasCfg_next (c : LinkParams) (t : State) :
    NextHasCfg c (.next t) ↔ t.cfg = c := by
  simp [NextHasCfg]

@[simp] theorem nextHasCfg_fault (c : LinkParams) (r : Fault) : NextHasCfg c (.fault r) := by
  simp [NextHasCfg]

@[simp] theorem nextHasCfg_refused (c : LinkParams) (r : Refusal) : NextHasCfg c (.refused r) := by
  simp [NextHasCfg]

section
variable (s : State)

/-! ### The commands -/

@[simp] theorem State.copyOutByte_cfg (v : Byte) : (s.copyOutByte v).cfg = s.cfg := rfl

@[simp] theorem State.copyInByte_cfg : s.copyInByte.cfg = s.cfg := rfl

@[simp] theorem State.copyOut_cfg (data : List Byte) : (s.copyOut data).cfg = s.cfg := by
  rw [State.copyOut_spec]

@[simp] theorem State.copyIn_cfg (n : Nat) : (s.copyIn n).cfg = s.cfg := by
  rw [State.copyIn_spec]

@[simp] theorem State.sendAck_cfg (cd : CdState) : (s.sendAck cd).cfg = s.cfg := rfl

@[simp] theorem State.confirmWrite_cfg (opcode : Byte) : (s.confirmWrite opcode).cfg = s.cfg := rfl

@[simp] theorem State.confirmRead_cfg (opcode : Byte) : (s.confirmRead opcode).cfg = s.cfg := rfl

@[simp] theorem State.runCheckStatus_cfg : s.runCheckStatus.cfg = s.cfg := rfl

@[simp] theorem State.runUnknown_cfg : s.runUnknown.cfg = s.cfg := rfl

@[simp] theorem State.writePhase1_cfg (ops : WriteOperands) : (s.writePhase1 ops).cfg = s.cfg := by
  cases ops <;> simp [State.writePhase1]

@[simp] theorem State.runWrite_cfg (ops : WriteOperands) : (s.runWrite ops).cfg = s.cfg := by
  unfold State.runWrite
  extract_lets s'
  split <;> simp [s']

@[simp] theorem State.readPhase1_cfg (ops : ReadOperands) : (s.readPhase1 ops).cfg = s.cfg := by
  cases ops <;> simp [State.readPhase1]

@[simp] theorem State.runRead_cfg (ops : ReadOperands) : (s.runRead ops).cfg = s.cfg := by
  unfold State.runRead
  extract_lets s'
  split <;> simp [s']

@[simp] theorem State.onReservedCommand_cfg (opcode : Byte) :
    (s.onReservedCommand opcode).cfg = s.cfg := by
  unfold State.onReservedCommand
  split <;> simp

/-- A command keeps the parameters if its transaction does. -/
theorem State.onCommand_nextHasCfg (i : Instr) {run : State → State} (h : (run s).cfg = s.cfg) :
    NextHasCfg s.cfg (s.onCommand i run) := by
  unfold State.onCommand
  repeat' split
  all_goals simp [h]

theorem State.onReply_nextHasCfg (i : Instr) : NextHasCfg s.cfg (s.onReply i) := by
  unfold State.onReply
  repeat' split
  all_goals simp

/-- No instruction writes a parameter. -/
theorem exec_nextHasCfg (i : Instr) : NextHasCfg s.cfg (exec i s) := by
  cases i with
  | checkStatus trailing => exact s.onCommand_nextHasCfg _ s.runCheckStatus_cfg
  | writeMemoryRegion ops => exact s.onCommand_nextHasCfg _ (s.runWrite_cfg ops)
  | readMemoryRegion ops => exact s.onCommand_nextHasCfg _ (s.runRead_cfg ops)
  | readMemoryRegionData trailing => exact s.onCommand_nextHasCfg _ s.runUnknown_cfg
  | rspUnexpectedCommand => exact s.onReply_nextHasCfg .rspUnexpectedCommand
  | rspOkWithChecksum checksum => exact s.onReply_nextHasCfg (.rspOkWithChecksum checksum)
  | rspReadMemoryRegionData data => exact s.onReply_nextHasCfg (.rspReadMemoryRegionData data)

/-! ### One transition of a peer -/

@[simp] theorem State.wCopyStep_cfg : s.wCopyStep.cfg = s.cfg := by
  unfold State.wCopyStep
  extract_lets s'
  repeat' split
  all_goals simp [s']

@[simp] theorem State.rCopyStep_cfg : s.rCopyStep.cfg = s.cfg := by
  unfold State.rCopyStep
  extract_lets s'
  repeat' split
  all_goals simp [s']

@[simp] theorem State.targetListen_cfg : s.targetListen.cfg = s.cfg := rfl

@[simp] theorem State.targetSend_cfg : s.targetSend.cfg = s.cfg := rfl

@[simp] theorem State.targetLocal_cfg : s.targetLocal.cfg = s.cfg := by
  unfold State.targetLocal
  split <;> simp

@[simp] theorem State.targetYield_cfg (y : Yield) : (s.targetYield y).cfg = s.cfg := rfl

@[simp] theorem State.targetTick_cfg : s.targetTick.cfg = s.cfg := by
  unfold State.targetTick
  split <;> simp

@[simp] theorem State.acceptRequest_cfg : s.acceptRequest.cfg = s.cfg := by
  unfold State.acceptRequest
  split <;> rfl

@[simp] theorem State.hostLocal_cfg : s.hostLocal.cfg = s.cfg := by
  unfold State.hostLocal
  split <;> simp

@[simp] theorem State.hostYield_cfg (y : Yield) : (s.hostYield y).cfg = s.cfg := rfl

@[simp] theorem State.hostTick_cfg : s.hostTick.cfg = s.cfg := by
  unfold State.hostTick
  split <;> simp

@[simp] theorem State.resetTarget_cfg : s.resetTarget.cfg = s.cfg := rfl

@[simp] theorem State.resetHost_cfg : s.resetHost.cfg = s.cfg := rfl

/-! ### Two linked peers -/

@[simp] theorem State.targetAlone_cfg : s.targetAlone.cfg = s.cfg := by
  unfold State.targetAlone
  repeat' split
  all_goals simp

@[simp] theorem State.hostAlone_cfg : s.hostAlone.cfg = s.cfg := by
  unfold State.hostAlone
  repeat' split
  all_goals simp

@[simp] theorem State.pairXfers_cfg : s.pairXfers.cfg = s.cfg := rfl

@[simp] theorem State.freeXfers_cfg (who : Option Role) : (s.freeXfers who).cfg = s.cfg := by
  unfold State.freeXfers
  split <;> simp

@[simp] theorem State.bothMove_cfg (who : Option Role) : (s.bothMove who).cfg = s.cfg := by
  unfold State.bothMove
  split <;> simp

@[simp] theorem State.oneMove_cfg (who : Option Role) : (s.oneMove who).cfg = s.cfg := by
  unfold State.oneMove
  repeat' split
  all_goals simp

@[simp] theorem State.linkMove_cfg : s.linkMove.cfg = s.cfg := by
  unfold State.linkMove
  extract_lets s'
  split <;> simp [s']

@[simp] theorem State.linkStep_cfg : s.linkStep.cfg = s.cfg := by
  unfold State.linkStep
  extract_lets s'
  split <;> simp [s']

theorem State.linkTurn_nextHasCfg : NextHasCfg s.cfg s.linkTurn := by
  unfold State.linkTurn
  split <;> simp

/-! ### The next packet of a peer -/

theorem State.runCommand_nextHasCfg : NextHasCfg s.cfg s.runCommand := by
  unfold State.runCommand
  split
  · exact exec_nextHasCfg s _
  · simp

@[simp] theorem State.receiveCommand_cfg : s.receiveCommand.cfg = s.cfg := rfl

theorem State.listen_nextHasCfg : NextHasCfg s.cfg s.listen := by
  unfold State.listen
  extract_lets s'
  split
  · exact s'.runCommand_nextHasCfg
  · simp [s']

theorem State.targetPacket_nextHasCfg : NextHasCfg s.cfg s.targetPacket := by
  unfold State.targetPacket
  repeat' split
  all_goals simp [s.listen_nextHasCfg, s.runCommand_nextHasCfg]

theorem State.runReply_nextHasCfg : NextHasCfg s.cfg s.runReply := by
  unfold State.runReply
  split
  · exact exec_nextHasCfg s _
  · simp

@[simp] theorem State.receiveReply_cfg : s.receiveReply.cfg = s.cfg := rfl

theorem State.awaitReply_nextHasCfg : NextHasCfg s.cfg s.awaitReply := by
  unfold State.awaitReply
  extract_lets s'
  split
  · exact s'.runReply_nextHasCfg
  · simp [s']

@[simp] theorem State.sendRequest_cfg : s.sendRequest.cfg = s.cfg := rfl

theorem State.exchange_nextHasCfg : NextHasCfg s.cfg s.exchange := by
  unfold State.exchange
  extract_lets s'
  split
  · exact s'.awaitReply_nextHasCfg
  · simp [s']

/-- An exchange begun by taking the next request keeps the parameters as well. -/
theorem State.acceptRequest_exchange_nextHasCfg : NextHasCfg s.cfg s.acceptRequest.exchange := by
  simpa using s.acceptRequest.exchange_nextHasCfg

theorem State.hostPacket_nextHasCfg : NextHasCfg s.cfg s.hostPacket := by
  unfold State.hostPacket
  repeat' split
  all_goals simp [s.acceptRequest_exchange_nextHasCfg, s.exchange_nextHasCfg, s.awaitReply_nextHasCfg]

/-! ### The turns -/

variable {act : State → Host.Outcome State Fault Refusal}

/-- A Responder's turn keeps the parameters if what it does in its turn keeps them. -/
theorem State.targetTurn_nextHasCfg (h : ∀ s : State, NextHasCfg s.cfg (act s)) :
    NextHasCfg s.cfg (s.targetTurn act) := by
  unfold State.targetTurn
  extract_lets s'
  split
  · simp [s']
  · exact h s'

/-- A Sender's turn keeps the parameters if what it does in its turn keeps them. -/
theorem State.hostTurn_nextHasCfg (h : ∀ s : State, NextHasCfg s.cfg (act s)) :
    NextHasCfg s.cfg (s.hostTurn act) := by
  unfold State.hostTurn
  extract_lets s'
  split
  · simp [s']
  · exact h s'

end

/-! ### The step -/

theorem step_of_linked {s : State} (h : s.schedule = .linked) : step s = s.linkTurn := by
  simp [step, h]

theorem State.linkTurn_of_incompatible {s : State} (h : s.cfg.compatible = false) :
    s.linkTurn = .refused .incompatiblePeers := by
  simp [State.linkTurn, h]

/-- No step writes a parameter, by the schedule and whose turn it is. -/
theorem step_nextHasCfg (s : State) : NextHasCfg s.cfg (step s) := by
  cases hs : s.schedule with
  | byPacket =>
    cases ht : s.turn with
    | responder => simpa [step, hs, ht] using s.targetTurn_nextHasCfg State.targetPacket_nextHasCfg
    | sender => simpa [step, hs, ht] using s.hostTurn_nextHasCfg State.hostPacket_nextHasCfg
  | byPort =>
    cases ht : s.turn with
    | responder => simpa [step, hs, ht] using s.targetTurn_nextHasCfg fun s => by simp
    | sender => simpa [step, hs, ht] using s.hostTurn_nextHasCfg fun s => by simp
  | linked => simpa [step_of_linked hs] using s.linkTurn_nextHasCfg

/-- Settles O53: every operation a step is made of leaves `cfg` as it is. -/
theorem parametersNeverChange : Obligations.ParametersNeverChange :=
  step_nextHasCfg

/-- Settles O57: the compatibility check stands before the reset inputs and the channel are looked at. -/
theorem lockstepNeedsCompatiblePeers : Obligations.LockstepNeedsCompatiblePeers := by
  intro s hlinked hcompat
  rw [step_of_linked hlinked, State.linkTurn_of_incompatible hcompat]

end Sys2Proof.Machine
end

section
/-! SUPPORT. What the operations of one peer leave alone of the other (10_state.md rule R20): each peer's
side of the state, one lemma an operation in the order of the model, then the statement. -/

namespace Sys2Proof.Machine

/-! ### The two sides of the state -/

/-- The Sender's side: the parameters, its registers, its requests and its reset input. -/
def State.hostSide (s : State) : LinkParams × Sender × List (List Byte) × List Bool :=
  (s.cfg, s.host, s.requests, s.hostReset)

/-- The Responder's side: the parameters, its registers, target memory, the other agents' stores and
its reset input. -/
def State.targetSide (s : State) :
    LinkParams × Responder × Memory × List (List (Word × Byte)) × List Bool :=
  (s.cfg, s.target, s.mem, s.otherStores, s.targetReset)

theorem State.hostSide_eq_iff {s t : State} : t.hostSide = s.hostSide ↔
    t.cfg = s.cfg ∧ t.host = s.host ∧ t.requests = s.requests ∧ t.hostReset = s.hostReset := by
  simp [State.hostSide]

theorem State.targetSide_eq_iff {s t : State} : t.targetSide = s.targetSide ↔
    t.cfg = s.cfg ∧ t.target = s.target ∧ t.mem = s.mem ∧ t.otherStores = s.otherStores ∧
      t.targetReset = s.targetReset := by
  simp [State.targetSide]

/-- Whatever state an outcome goes on to meets `P`. -/
def NextMeets (P : State → Prop) (o : Host.Outcome State Fault Refusal) : Prop :=
  ∀ t, o = .next t → P t

@[simp] theorem nextMeets_next (P : State → Prop) (t : State) : NextMeets P (.next t) ↔ P t := by
  simp [NextMeets]

@[simp] theorem nextMeets_fault (P : State → Prop) (r : Fault) : NextMeets P (.fault r) := by
  simp [NextMeets]

@[simp] theorem nextMeets_refused (P : State → Prop) (r : Refusal) : NextMeets P (.refused r) := by
  simp [NextMeets]

/-! ### The direction of a decoded packet -/

theorem decodeCommand_direction {opcode : Byte} {rest : List Byte} {i : Instr}
    (h : decodeCommand opcode rest = .ok i) : i.direction = .h2t := by
  unfold decodeCommand at h
  repeat' split at h
  all_goals cases h
  all_goals rfl

theorem decodeResponse_direction {opcode : Byte} {rest : List Byte} {i : Instr}
    (h : decodeResponse opcode rest = .ok i) : i.direction = .t2h := by
  unfold decodeResponse decodeOk at h
  repeat' split at h
  all_goals cases h
  all_goals rfl

/-- A packet decodes to an instruction of the direction it travels (30_encoding.md rules R75, R76). -/
theorem decode_direction {d : Direction} {bs : List Byte} {i : Instr} (h : decode d bs = .ok i) :
    i.direction = d := by
  cases bs with
  | nil => cases h
  | cons opcode rest =>
    simp only [decode] at h
    split at h
    · cases h
    · cases d with
      | h2t => exact decodeCommand_direction h
      | t2h => exact decodeResponse_direction h

section
variable (s : State)

/-! ### The Responder's operations and the Sender's side -/

@[simp] theorem State.onTarget_hostSide (f : Responder → Responder) :
    (s.onTarget f).hostSide = s.hostSide := rfl

@[simp] theorem State.gotoCd_hostSide (cd : CdState) : (s.gotoCd cd).hostSide = s.hostSide := rfl

@[simp] theorem State.copyOutByte_hostSide (v : Byte) :
    (s.copyOutByte v).hostSide = s.hostSide := rfl

@[simp] theorem State.copyInByte_hostSide : s.copyInByte.hostSide = s.hostSide := rfl

@[simp] theorem State.copyOut_hostSide (data : List Byte) :
    (s.copyOut data).hostSide = s.hostSide := by
  rw [State.copyOut_spec]
  rfl

@[simp] theorem State.copyIn_hostSide (n : Nat) : (s.copyIn n).hostSide = s.hostSide := by
  rw [State.copyIn_spec]
  rfl

@[simp] theorem State.sendAck_hostSide (cd : CdState) : (s.sendAck cd).hostSide = s.hostSide := rfl

@[simp] theorem State.confirmWrite_hostSide (opcode : Byte) :
    (s.confirmWrite opcode).hostSide = s.hostSide := rfl

@[simp] theorem State.confirmRead_hostSide (opcode : Byte) :
    (s.confirmRead opcode).hostSide = s.hostSide := rfl

@[simp] theorem State.runCheckStatus_hostSide : s.runCheckStatus.hostSide = s.hostSide := rfl

@[simp] theorem State.runUnknown_hostSide : s.runUnknown.hostSide = s.hostSide := rfl

@[simp] theorem State.writePhase1_hostSide (ops : WriteOperands) :
    (s.writePhase1 ops).hostSide = s.hostSide := by
  cases ops <;> simp [State.writePhase1]

@[simp] theorem State.runWrite_hostSide (ops : WriteOperands) :
    (s.runWrite ops).hostSide = s.hostSide := by
  unfold State.runWrite
  extract_lets s'
  split <;> simp [s']

@[simp] theorem State.readPhase1_hostSide (ops : ReadOperands) :
    (s.readPhase1 ops).hostSide = s.hostSide := by
  cases ops <;> simp [State.readPhase1]

@[simp] theorem State.runRead_hostSide (ops : ReadOperands) :
    (s.runRead ops).hostSide = s.hostSide := by
  unfold State.runRead
  extract_lets s'
  split <;> simp [s']

@[simp] theorem State.onReservedCommand_hostSide (opcode : Byte) :
    (s.onReservedCommand opcode).hostSide = s.hostSide := by
  unfold State.onReservedCommand
  split <;> simp

/-- What a delivered command packet leads to, whatever its transaction keeps. -/
theorem State.onCommand_meets {P : State → Prop} {i : Instr} {run : State → State}
    (hrun : i.wellFormed = true → s.target.eng.state = .idle → P (run s))
    (hw : s.target.eng.state = .idle → P (s.confirmWrite i.opcode))
    (hr : s.target.eng.state = .idle → P (s.confirmRead i.opcode)) :
    NextMeets P (s.onCommand i run) := by
  unfold State.onCommand
  split
  · simp
  next hwf =>
    split
    · simp
    next hidle =>
      replace hwf : i.wellFormed = true := by simpa using hwf
      replace hidle : s.target.eng.state = .idle := by simpa using hidle
      split <;> simp [hrun hwf hidle, hw hidle, hr hidle]

/-- A command leaves the Sender's side alone. -/
theorem exec_command_hostSide {i : Instr} (hd : i.direction = .h2t) :
    NextMeets (fun t => t.hostSide = s.hostSide) (exec i s) := by
  cases i with
  | checkStatus _ | writeMemoryRegion _ | readMemoryRegion _ | readMemoryRegionData _ =>
    exact s.onCommand_meets (by simp) (by simp) (by simp)
  | rspUnexpectedCommand | rspOkWithChecksum _ | rspReadMemoryRegionData _ => cases hd

@[simp] theorem State.wCopyStep_hostSide : s.wCopyStep.hostSide = s.hostSide := by
  unfold State.wCopyStep
  extract_lets s'
  repeat' split
  all_goals simp [s']

@[simp] theorem State.rCopyStep_hostSide : s.rCopyStep.hostSide = s.hostSide := by
  unfold State.rCopyStep
  extract_lets s'
  repeat' split
  all_goals simp [s']

@[simp] theorem State.targetLocal_hostSide : s.targetLocal.hostSide = s.hostSide := by
  unfold State.targetLocal
  split <;> simp [State.targetListen, State.targetSend]

@[simp] theorem State.targetYield_hostSide (y : Yield) :
    (s.targetYield y).hostSide = s.hostSide := rfl

@[simp] theorem State.targetTick_hostSide : s.targetTick.hostSide = s.hostSide := by
  unfold State.targetTick
  split <;> simp

@[simp] theorem State.targetAlone_hostSide : s.targetAlone.hostSide = s.hostSide := by
  unfold State.targetAlone
  repeat' split
  all_goals simp

@[simp] theorem State.resetTarget_hostSide : s.resetTarget.hostSide = s.hostSide := rfl

@[simp] theorem State.receiveCommand_hostSide : s.receiveCommand.hostSide = s.hostSide := rfl

theorem State.runCommand_hostSide : NextMeets (fun t => t.hostSide = s.hostSide) s.runCommand := by
  unfold State.runCommand
  split
  · next hdec => exact exec_command_hostSide s (decode_direction hdec)
  · simp

theorem State.listen_hostSide : NextMeets (fun t => t.hostSide = s.hostSide) s.listen := by
  unfold State.listen
  extract_lets s'
  split
  · exact s'.runCommand_hostSide
  · simp [s']

theorem State.targetPacket_hostSide :
    NextMeets (fun t => t.hostSide = s.hostSide) s.targetPacket := by
  unfold State.targetPacket
  repeat' split
  all_goals simp [s.listen_hostSide, s.runCommand_hostSide]

/-! ### The Sender's operations and the Responder's side -/

@[simp] theorem State.onHost_targetSide (f : Sender → Sender) :
    (s.onHost f).targetSide = s.targetSide := rfl

@[simp] theorem State.acceptRequest_targetSide : s.acceptRequest.targetSide = s.targetSide := by
  unfold State.acceptRequest
  split <;> rfl

@[simp] theorem State.hostLocal_targetSide : s.hostLocal.targetSide = s.targetSide := by
  unfold State.hostLocal
  split <;> simp

@[simp] theorem State.hostYield_targetSide (y : Yield) :
    (s.hostYield y).targetSide = s.targetSide := rfl

@[simp] theorem State.hostTick_targetSide : s.hostTick.targetSide = s.targetSide := by
  unfold State.hostTick
  split <;> simp

@[simp] theorem State.hostAlone_targetSide : s.hostAlone.targetSide = s.targetSide := by
  unfold State.hostAlone
  repeat' split
  all_goals simp

@[simp] theorem State.resetHost_targetSide : s.resetHost.targetSide = s.targetSide := rfl

@[simp] theorem State.receiveReply_targetSide : s.receiveReply.targetSide = s.targetSide := rfl

@[simp] theorem State.sendRequest_targetSide : s.sendRequest.targetSide = s.targetSide := rfl

/-- What a delivered reply leads to, if it is run at all. -/
theorem State.onReply_meets {P : State → Prop} {i : Instr}
    (h : P (s.onHost (Sender.respondOk (encode i)))) : NextMeets P (s.onReply i) := by
  unfold State.onReply
  repeat' split
  all_goals simp [h]

/-- A response passes upstream as the bytes of its packet, whichever it is. -/
theorem exec_response {i : Instr} (hd : i.direction = .t2h) : exec i s = s.onReply i := by
  cases i with
  | checkStatus _ | writeMemoryRegion _ | readMemoryRegion _ | readMemoryRegionData _ => cases hd
  | rspUnexpectedCommand | rspOkWithChecksum _ | rspReadMemoryRegionData _ => rfl

/-- A reply goes upstream, decoded or not. -/
theorem State.runReply_meets {P : State → Prop}
    (h : ∀ bytes, P (s.onHost (Sender.respondOk bytes))) : NextMeets P s.runReply := by
  unfold State.runReply
  split
  · next hdec =>
    rw [exec_response s (decode_direction hdec)]
    exact s.onReply_meets (h _)
  · simp [h]

/-- The exchange from `SETTLE` on ends with a response upstream. -/
theorem State.awaitReply_meets {P : State → Prop}
    (hok : ∀ bytes, P (s.receiveReply.onHost (Sender.respondOk bytes)))
    (herr : ∀ k, P (s.receiveReply.onHost (Sender.respondErr k))) : NextMeets P s.awaitReply := by
  unfold State.awaitReply
  extract_lets s'
  split
  · exact s'.runReply_meets hok
  · next k _ => simpa using herr k

/-- The exchange ends with its SendPacket or goes on to the reply. -/
theorem State.exchange_meets {P : State → Prop} (hsend : P s.sendRequest)
    (hawait : NextMeets P s.sendRequest.awaitReply) : NextMeets P s.exchange := by
  unfold State.exchange
  extract_lets s'
  split
  · exact hawait
  · simpa using hsend

theorem State.awaitReply_targetSide :
    NextMeets (fun t => t.targetSide = s.targetSide) s.awaitReply :=
  s.awaitReply_meets (by simp) (by simp)

theorem State.exchange_targetSide : NextMeets (fun t => t.targetSide = s.targetSide) s.exchange :=
  s.exchange_meets (by simp) (by simpa using s.sendRequest.awaitReply_targetSide)

theorem State.acceptRequest_exchange_targetSide :
    NextMeets (fun t => t.targetSide = s.targetSide) s.acceptRequest.exchange := by
  simpa using s.acceptRequest.exchange_targetSide

theorem State.hostPacket_targetSide :
    NextMeets (fun t => t.targetSide = s.targetSide) s.hostPacket := by
  unfold State.hostPacket
  repeat' split
  all_goals
    simp [s.acceptRequest_exchange_targetSide, s.exchange_targetSide, s.awaitReply_targetSide]

/-! ### The turns -/

variable {s} {P : State → Prop} {act : State → Host.Outcome State Fault Refusal}

theorem State.targetTurn_of_reset (h : s.targetReset.headD false = true) : s.targetTurn act =
    .next ({ s with turn := .sender, targetReset := s.targetReset.tail } : State).resetTarget := by
  rw [State.targetTurn, if_pos h]

theorem State.hostTurn_of_reset (h : s.hostReset.headD false = true) : s.hostTurn act =
    .next ({ s with turn := .responder, hostReset := s.hostReset.tail } : State).resetHost := by
  rw [State.hostTurn, if_pos h]

/-- A Responder's turn is its reset or what `act` does. -/
theorem State.targetTurn_meets
    (hreset : P ({ s with turn := .sender, targetReset := s.targetReset.tail } : State).resetTarget)
    (hact : NextMeets P (act { s with turn := .sender, targetReset := s.targetReset.tail })) :
    NextMeets P (s.targetTurn act) := by
  unfold State.targetTurn
  extract_lets s'
  split
  · simpa using hreset
  · exact hact

/-- A Sender's turn is its reset or what `act` does. -/
theorem State.hostTurn_meets
    (hreset : P ({ s with turn := .responder, hostReset := s.hostReset.tail } : State).resetHost)
    (hact : NextMeets P (act { s with turn := .responder, hostReset := s.hostReset.tail })) :
    NextMeets P (s.hostTurn act) := by
  unfold State.hostTurn
  extract_lets s'
  split
  · simpa using hreset
  · exact hact

/-- The step of a Responder's turn, by packet or by port. -/
theorem step_of_responder (hs : s.schedule ≠ .linked) (ht : s.turn = .responder) :
    step s = s.targetTurn State.targetPacket ∨
      step s = s.targetTurn fun s => .next s.targetTick := by
  cases hsch : s.schedule with
  | byPacket => exact .inl (by simp [step, hsch, ht])
  | byPort => exact .inr (by simp [step, hsch, ht])
  | linked => exact absurd hsch hs

/-- The step of a Sender's turn, by packet or by port. -/
theorem step_of_sender (hs : s.schedule ≠ .linked) (ht : s.turn = .sender) :
    step s = s.hostTurn State.hostPacket ∨ step s = s.hostTurn fun s => .next s.hostTick := by
  cases hsch : s.schedule with
  | byPacket => exact .inl (by simp [step, hsch, ht])
  | byPort => exact .inr (by simp [step, hsch, ht])
  | linked => exact absurd hsch hs

theorem step_responder_hostSide (hs : s.schedule ≠ .linked) (ht : s.turn = .responder) :
    NextMeets (fun t => t.hostSide = s.hostSide) (step s) := by
  rcases step_of_responder hs ht with h | h <;> rw [h]
  · exact State.targetTurn_meets (State.resetTarget_hostSide _) (State.targetPacket_hostSide _)
  · exact State.targetTurn_meets (State.resetTarget_hostSide _)
      ((nextMeets_next _ _).2 (State.targetTick_hostSide _))

theorem step_sender_targetSide (hs : s.schedule ≠ .linked) (ht : s.turn = .sender) :
    NextMeets (fun t => t.targetSide = s.targetSide) (step s) := by
  rcases step_of_sender hs ht with h | h <;> rw [h]
  · exact State.hostTurn_meets (State.resetHost_targetSide _) (State.hostPacket_targetSide _)
  · exact State.hostTurn_meets (State.resetHost_targetSide _)
      ((nextMeets_next _ _).2 (State.hostTick_targetSide _))

end

/-- Settles O52: every operation of a peer's turn leaves the other peer's side of the state. -/
theorem peersShareNothing : Obligations.PeersShareNothing := by
  intro s t hs hstep
  constructor
  · intro ht
    obtain ⟨-, hhost, hreq, hreset⟩ :=
      State.hostSide_eq_iff.1 (step_responder_hostSide hs ht t hstep)
    exact ⟨hhost, hreq, hreset⟩
  · intro ht
    obtain ⟨-, htarget, hmem, hstores, hreset⟩ :=
      State.targetSide_eq_iff.1 (step_sender_targetSide hs ht t hstep)
    exact ⟨htarget, hmem, hstores, hreset⟩

end Sys2Proof.Machine
end

section
/-! SUPPORT. The invariant of a link engine (10_state.md rules R24, R26, R27): what each operation of the
link layer keeps of it, one lemma a row of 40_link_layer.md rule R112, and the two packet operations. -/

namespace Sys2Proof.Machine

/-- The register ranges of a link engine that hold wherever it stands, and the parity of its free
values. -/
structure Engine.InRange (p : Params) (parity : Nat) (e : Engine) : Prop where
  rxLen_pos : 1 ≤ e.rxLen
  rxLen_le : e.rxLen ≤ 256
  hsCnt_le : e.hsCnt ≤ p.hsAttempts
  idx_le : e.idx ≤ 256
  draws : e.draws % 2 = parity

/-- The invariant of a link engine with the parity of its free values. -/
structure Engine.Good (p : Params) (parity : Nat) (e : Engine) : Prop
    extends Engine.InRange p parity e where
  phase : e.phaseOk p = true

theorem Engine.good_iff {p : Params} {parity : Nat} {e : Engine} :
    e.Good p parity ↔ e.inv p = true ∧ e.draws % 2 = parity := by
  simp only [Engine.inv, Bool.and_eq_true, decide_eq_true_eq]
  constructor
  · rintro ⟨⟨hpos, hle, hhs, hidx, hdraws⟩, hphase⟩
    exact ⟨⟨⟨⟨⟨hpos, hle⟩, hhs⟩, hidx⟩, hphase⟩, hdraws⟩
  · rintro ⟨⟨⟨⟨⟨hpos, hle⟩, hhs⟩, hidx⟩, hphase⟩, hdraws⟩
    exact ⟨⟨hpos, hle, hhs, hidx, hdraws⟩, hphase⟩

/-! ### The phases -/

@[simp] theorem LeState.idle_receiving : LeState.idle.receiving = false := rfl

@[simp] theorem LeState.idle_sending : LeState.idle.sending = false := rfl

/-- An engine that is not idle is in one of the two packet operations. -/
theorem LeState.receiving_or_sending {st : LeState} (h : st ≠ .idle) :
    st.receiving = true ∨ (st.sending = true ∧ st.receiving = false) := by
  cases st with
  | idle => exact absurd rfl h
  | sSearch | sConfirm | sLen | sPay => exact .inr ⟨rfl, rfl⟩
  | rSearch | rEcho | rLen | rPay => exact .inl rfl

/-- No phase of the other packet operation follows `st`: the operation goes on or has ended. -/
def LeState.GoesOn (st st' : LeState) : Prop :=
  (st'.receiving = true → st.receiving = true) ∧ (st'.sending = true → st.sending = true)

theorem LeState.GoesOn.refl (st : LeState) : st.GoesOn st :=
  ⟨id, id⟩

theorem LeState.GoesOn.to_idle (st : LeState) : st.GoesOn .idle :=
  ⟨nofun, nofun⟩

theorem LeState.GoesOn.of_sending {st st' : LeState} (h : st.sending = true)
    (h' : st'.receiving = false) : st.GoesOn st' :=
  ⟨fun hr => absurd (h'.symm.trans hr) nofun, fun _ => h⟩

theorem LeState.GoesOn.of_receiving {st st' : LeState} (h : st.receiving = true)
    (h' : st'.sending = false) : st.GoesOn st' :=
  ⟨fun _ => h, fun hs => absurd (h'.symm.trans hs) nofun⟩

theorem LeState.GoesOn.ite {c : Prop} [Decidable c] {st a b : LeState} (ha : st.GoesOn a)
    (hb : st.GoesOn b) : st.GoesOn (if c then a else b) := by
  split
  exacts [ha, hb]

variable {p : Params} {parity : Nat} {e : Engine}

/-- An idle engine has no phase to keep to. -/
theorem Engine.InRange.good_of_idle (h : e.InRange p parity) (hi : e.state = .idle) :
    e.Good p parity :=
  { h with phase := by simp [Engine.phaseOk, hi] }

theorem Engine.InRange.loseRx (h : e.InRange p parity) : e.loseRx.InRange p parity where
  rxLen_pos := Nat.le_add_left _ _
  rxLen_le := (Config.freeRxLen e.draws).isLt
  hsCnt_le := h.hsCnt_le
  idx_le := h.idx_le
  draws := (Nat.add_mod_right _ _).trans h.draws

/-- Wherever a link operation is aborted, the engine is left in its invariant. -/
theorem Engine.InRange.abort (h : e.InRange p parity) (k : ErrKind) : (e.abort k).Good p parity := by
  refine Engine.InRange.good_of_idle ?_ (e.abort_state k)
  cases hr : e.state.receiving with
  | false => exact e.abort_of_not_receiving k hr ▸ { h with }
  | true => exact e.abort_of_receiving k hr ▸ { h.loseRx with }

theorem Engine.InRange.finish (h : e.InRange p parity) : e.finish.Good p parity :=
  Engine.InRange.good_of_idle { h with } rfl

theorem Engine.Good.log (h : e.Good p parity) (ev : PortEvent) : (e.log ev).Good p parity :=
  { h with }

theorem Engine.Good.consume (h : e.Good p parity) : e.consume.Good p parity :=
  { h with }

/-- What is staged matters to a send in progress only. -/
theorem Engine.Good.stage_of_idle (h : e.Good p parity) (hi : e.state = .idle) (bytes : List Byte) :
    (e.stage bytes).Good p parity :=
  Engine.InRange.good_of_idle { h with } hi

/-! ### The starts -/

theorem Params.hsAttempts_pos (hp : p.inRange = true) : 0 < p.hsAttempts :=
  ((Params.inRange_iff p).1 hp).1

theorem Params.recvEchoCount_pos (hp : p.inRange = true) : 0 < p.recvEchoCount :=
  ((Params.inRange_iff p).1 hp).2.1

theorem Params.pktMax_eq (hp : p.inRange = true) : p.pktMax = 256 :=
  ((Params.inRange_iff p).1 hp).2.2.1

theorem Engine.Good.startReceive (h : e.Good p parity) (hp : p.inRange = true) :
    (startReceive p e).Good p parity where
  toInRange := { h with hsCnt_le := Nat.zero_le _ }
  phase := decide_eq_true (Params.hsAttempts_pos hp)

theorem Engine.Good.startSend (h : e.Good p parity) (hp : p.inRange = true) :
    (startSend p e).Good p parity := by
  unfold Machine.startSend
  split
  · exact h.toInRange.abort _
  next hlen =>
    refine ⟨{ h with hsCnt_le := Nat.zero_le _ }, ?_⟩
    simpa [Engine.phaseOk, Engine.badLength] using And.intro hlen (Params.hsAttempts_pos hp)

/-! ### The rows of the step table -/

/-- A miss uses up one attempt, and the last one aborts the search. -/
theorem Engine.Good.searchMiss (h : e.Good p parity)
    (hs : e.state = .sSearch ∨ e.state = .rSearch) : (e.searchMiss p).Good p parity := by
  have hphase := h.phase
  have hlt : e.hsCnt < p.hsAttempts := by rcases hs with hs | hs <;> simp_all [Engine.phaseOk]
  have hrange : ({ e with hsCnt := e.hsCnt + 1 } : Engine).InRange p parity :=
    { h with hsCnt_le := hlt }
  unfold Engine.searchMiss
  split
  · exact hrange.abort _
  next hne =>
    refine ⟨hrange, ?_⟩
    have hlt' : e.hsCnt + 1 < p.hsAttempts := by omega
    rcases hs with hs | hs <;> simp_all [Engine.phaseOk, Engine.badLength]

theorem Engine.Good.sendMatched (h : e.Good p parity) (hs : e.state = .sSearch) :
    (e.sendMatched p).Good p parity := by
  have hphase := h.phase
  simp only [Engine.phaseOk, hs, Engine.badLength, Bool.and_eq_true, decide_eq_true_eq] at hphase
  obtain ⟨hlen, hlt⟩ := hphase
  refine ⟨{ h with hsCnt_le := hlt }, ?_⟩
  by_cases hc : p.sendConfirmCount = 0
  · simpa [Engine.phaseOk, Engine.sendMatched, Engine.badLength, hc] using hlen
  · simpa [Engine.phaseOk, Engine.sendMatched, Engine.badLength, hc, Nat.pos_iff_ne_zero] using hlen

theorem Engine.Good.confirmed (h : e.Good p parity) (hs : e.state = .sConfirm) :
    (e.confirmed p).Good p parity := by
  have hphase := h.phase
  simp only [Engine.phaseOk, hs, Engine.badLength, Bool.and_eq_true, decide_eq_true_eq] at hphase
  obtain ⟨hlen, hlt⟩ := hphase
  refine ⟨{ h with }, ?_⟩
  by_cases hc : e.echoCnt + 1 = p.sendConfirmCount
  · simpa [Engine.phaseOk, Engine.confirmed, Engine.badLength, hc] using hlen
  · have hlt' : e.echoCnt + 1 < p.sendConfirmCount := by omega
    simpa [Engine.phaseOk, Engine.confirmed, Engine.badLength, hc, hlt'] using hlen

/-- `IDX` stays below `TX_LEN`, which is legal, until the payload ends. -/
theorem Engine.Good.paid (h : e.Good p parity) (hp : p.inRange = true) (hs : e.state = .sPay) :
    e.paid.Good p parity := by
  have hphase := h.phase
  have hmax := Params.pktMax_eq hp
  simp only [Engine.phaseOk, hs, Bool.and_eq_true, decide_eq_true_eq, Bool.not_eq_true',
    Engine.badLength_false_iff] at hphase
  obtain ⟨⟨hlen1, hlen2⟩, hlt⟩ := hphase
  have hrange : ({ e with acc := csumStep e.acc (bufAt e.txBuf e.idx), idx := e.idx + 1 } :
      Engine).InRange p parity := { h with idx_le := by simp only; omega }
  unfold Engine.paid
  extract_lets e'
  split
  · exact hrange.finish
  · refine ⟨hrange, ?_⟩
    simp [Engine.phaseOk, e', hs, Engine.badLength]
    omega

theorem Engine.Good.echoed (h : e.Good p parity) (hs : e.state = .rEcho) :
    (e.echoed p).Good p parity := by
  have hphase := h.phase
  simp only [Engine.phaseOk, hs, decide_eq_true_eq] at hphase
  refine ⟨{ h with }, ?_⟩
  by_cases hc : e.echoCnt + 1 = p.recvEchoCount
  · simp [Engine.phaseOk, Engine.echoed, hc]
  · simp [Engine.phaseOk, Engine.echoed, hc]
    omega

/-- `IDX` stays below `RX_LEN` until the payload ends. -/
theorem Engine.Good.took (h : e.Good p parity) (hs : e.state = .rPay) (v : Byte) :
    (e.took v).Good p parity := by
  have hphase := h.phase
  have hle := h.rxLen_le
  simp only [Engine.phaseOk, hs, decide_eq_true_eq] at hphase
  have hrange : ({ e with
      rxBuf := bufPut e.rxBuf e.idx v, acc := csumStep e.acc v, idx := e.idx + 1 } :
      Engine).InRange p parity := { h with idx_le := by simp only; omega }
  unfold Engine.took
  extract_lets e'
  split
  · exact hrange.finish
  · refine ⟨hrange, ?_⟩
    simp [Engine.phaseOk, e', hs]
    omega

/-- Every row of the table for a byte keeps the engine's invariant. -/
theorem Engine.Good.onByte (h : e.Good p parity) (hp : p.inRange = true) (v : Byte) :
    (e.onByte p v).Good p parity := by
  have hphase := h.phase
  unfold Engine.onByte
  split
  next => exact h
  next hs =>
    split
    · exact h.sendMatched hs
    · exact h.searchMiss (.inl hs)
  next hs => exact h.confirmed hs
  next hs =>
    simp only [Engine.phaseOk, hs, Bool.not_eq_true', Engine.badLength_false_iff] at hphase
    obtain ⟨hlen1, hlen2⟩ := hphase
    refine ⟨{ h with idx_le := Nat.zero_le _ }, ?_⟩
    simp [Engine.phaseOk, Engine.badLength]
    omega
  next hs => exact h.paid hp hs
  next hs =>
    split
    · simp only [Engine.phaseOk, hs, decide_eq_true_eq] at hphase
      refine ⟨{ h with hsCnt_le := hphase }, ?_⟩
      simpa [Engine.phaseOk] using Params.recvEchoCount_pos hp
    · exact h.searchMiss (.inr hs)
  next hs => exact h.echoed hs
  next hs =>
    obtain ⟨hpos, hle⟩ := lengthOf_range v
    exact ⟨{ h with rxLen_pos := hpos, rxLen_le := hle, idx_le := Nat.zero_le _ },
      decide_eq_true hpos⟩
  next hs => exact h.took hs v

/-- Whatever an outstanding `Xfer` yields, the engine's invariant holds after it. -/
theorem Engine.Good.onYield (h : e.Good p parity) (hp : p.inRange = true) (y : Yield) :
    (e.onYield p y).Good p parity := by
  cases y with
  | timeout => exact (h.log _).toInRange.abort _
  | byte v => exact (h.log _).onByte hp v

/-! ### What a transfer leaves alone -/

@[simp] theorem Engine.onYield_txLen (y : Yield) : (e.onYield p y).txLen = e.txLen := by
  cases y with
  | timeout => simp [Engine.onYield]
  | byte v =>
    simp only [Engine.onYield, Engine.onByte, Engine.searchMiss, Engine.paid, Engine.took]
    repeat' split
    all_goals simp [Engine.sendMatched, Engine.confirmed, Engine.echoed]

theorem Engine.abort_rxLen (h : e.state.receiving = false) (k : ErrKind) :
    (e.abort k).rxLen = e.rxLen := by
  rw [e.abort_of_not_receiving k h]

theorem Engine.searchMiss_rxLen (h : e.state.receiving = false) :
    (e.searchMiss p).rxLen = e.rxLen := by
  unfold Engine.searchMiss
  split
  · exact Engine.abort_rxLen (e := { e with hsCnt := e.hsCnt + 1 }) h _
  · rfl

theorem Engine.paid_rxLen : e.paid.rxLen = e.rxLen := by
  unfold Engine.paid
  extract_lets e'
  split <;> rfl

theorem Engine.onByte_rxLen (h : e.state.receiving = false) (v : Byte) :
    (e.onByte p v).rxLen = e.rxLen := by
  cases hs : e.state with
  | idle | sConfirm | sLen => simp [Engine.onByte, Engine.confirmed, hs]
  | sSearch =>
    by_cases hv : v = p.hsSend
    · simp [Engine.onByte, Engine.sendMatched, hs, hv]
    · simp [Engine.onByte, hs, hv, Engine.searchMiss_rxLen h]
  | sPay => simp [Engine.onByte, hs, Engine.paid_rxLen]
  | rSearch | rEcho | rLen | rPay => simp [hs, LeState.receiving] at h

/-- A transfer of a SendPacket leaves `RX_LEN`. -/
theorem Engine.onYield_rxLen (h : e.state.receiving = false) (y : Yield) :
    (e.onYield p y).rxLen = e.rxLen := by
  cases y with
  | timeout => exact Engine.abort_rxLen (e := e.log _) h _
  | byte v => exact Engine.onByte_rxLen (e := e.log _) h v

theorem Engine.startSend_rxLen (h : e.state.receiving = false) :
    (startSend p e).rxLen = e.rxLen := by
  unfold startSend
  split
  · exact Engine.abort_rxLen h _
  · rfl

/-! ### Where a transfer leads -/

theorem Engine.startSend_receiving : (startSend p e).state.receiving = false := by
  unfold startSend
  split <;> rfl

theorem Engine.searchMiss_goesOn : e.state.GoesOn (e.searchMiss p).state := by
  unfold Engine.searchMiss
  split
  · exact .to_idle _
  · exact .refl _

theorem Engine.paid_goesOn : e.state.GoesOn e.paid.state := by
  unfold Engine.paid
  extract_lets e'
  split
  · exact .to_idle _
  · exact .refl _

theorem Engine.took_goesOn (v : Byte) : e.state.GoesOn (e.took v).state := by
  unfold Engine.took
  extract_lets e'
  split
  · exact .to_idle _
  · exact .refl _

theorem Engine.onByte_goesOn (v : Byte) : e.state.GoesOn (e.onByte p v).state := by
  unfold Engine.onByte
  split
  next => exact .refl _
  next hs =>
    split
    · exact hs ▸ .ite (.of_sending rfl rfl) (.of_sending rfl rfl)
    · exact Engine.searchMiss_goesOn
  next hs => exact hs ▸ .ite (.of_sending rfl rfl) (.of_sending rfl rfl)
  next hs => exact hs ▸ .of_sending rfl rfl
  next => exact Engine.paid_goesOn
  next hs =>
    split
    · exact hs ▸ .of_receiving rfl rfl
    · exact Engine.searchMiss_goesOn
  next hs => exact hs ▸ .ite (.of_receiving rfl rfl) (.of_receiving rfl rfl)
  next hs => exact hs ▸ .of_receiving rfl rfl
  next => exact Engine.took_goesOn v

/-- A link operation ends in `IDLE` or goes on as the same operation. -/
theorem Engine.onYield_goesOn (y : Yield) : e.state.GoesOn (e.onYield p y).state := by
  cases y with
  | timeout => exact .to_idle _
  | byte v => exact Engine.onByte_goesOn (e := e.log _) v

/-! ### The packet operations -/

@[simp] theorem sendPacket_state : (sendPacket p e).state = .idle := by
  unfold sendPacket
  split
  · rfl
  · generalize Attempt.andThen _ _ = a
    rcases a with ⟨_ | _, e'⟩ <;> rfl

@[simp] theorem receivePacket_state : (receivePacket p e).state = .idle := by
  unfold receivePacket
  generalize Attempt.andThen _ _ = a
  rcases a with ⟨_ | _, e'⟩ <;> rfl

/-- However a SendPacket ends, the engine is left in its invariant. -/
theorem Engine.Good.sendPacket (h : e.Good p parity) (hp : p.inRange = true) :
    (sendPacket p e).Good p parity := by
  cases hlen : e.badLength p with
  | true => exact sendPacket_badLength hlen ▸ h.toInRange.abort _
  | false =>
    obtain ⟨-, hmax⟩ := (Engine.badLength_false_iff p e).1 hlen
    have h256 := Params.pktMax_eq hp
    have hidx := h.idx_le
    obtain ⟨evs, r, sent, hs, echoes, ix, heq, -, -, -, hhs, hix, -⟩ := sendPacket_spec p e hlen
    refine Engine.InRange.good_of_idle ?_ sendPacket_state
    rw [heq]
    exact { h with hsCnt_le := hhs, idx_le := show ix ≤ 256 by omega }

/-- However a ReceivePacket ends, the engine is left in its invariant. -/
theorem Engine.Good.receivePacket (h : e.Good p parity) : (receivePacket p e).Good p parity := by
  refine Engine.InRange.good_of_idle ?_ receivePacket_state
  have hidx := h.idx_le
  rcases receivePacket_spec p e with
    ⟨evs, packet, hs, echoes, heq, -, hpos, hle, hhs, -⟩ |
      ⟨evs, k, got, hs, echoes, ix, heq, -, -, hhs, hix, -⟩
  · rw [heq]
    exact { h with rxLen_pos := hpos, rxLen_le := hle, hsCnt_le := hhs, idx_le := hle }
  · rw [heq]
    exact { h.toInRange.loseRx with hsCnt_le := hhs, idx_le := show ix ≤ 256 by omega }

@[simp] theorem receivePacket_txLen : (receivePacket p e).txLen = e.txLen := by
  rcases receivePacket_spec p e with ⟨_, _, _, _, heq, -⟩ | ⟨_, _, _, _, _, _, heq, -⟩ <;>
    rw [heq] <;> rfl

/-- A reset input leaves the engine in its invariant, whatever it was doing. -/
theorem Engine.toReset_good (hdraws : e.draws % 2 = parity) : e.toReset.Good p parity :=
  Engine.InRange.good_of_idle
    { rxLen_pos := Nat.le_refl 1
      rxLen_le := show 1 ≤ 256 by decide
      hsCnt_le := Nat.zero_le _
      idx_le := Nat.zero_le _
      draws := hdraws } rfl

end Sys2Proof.Machine
end

section
/-! SUPPORT. The invariant of the two peers (10_state.md rules R29, R39, 41_dispatch.md rule R160): what
each transition of the CD and of the XO keeps of it. -/

namespace Sys2Proof.Machine

/-! ### The Responder -/

/-- The Responder's registers in their ranges, and its LE in its invariant. -/
structure Responder.Fits (p : Params) (r : Responder) : Prop where
  eng : r.eng.Good p 0
  cmdLen_pos : 1 ≤ r.cmdLen
  cmdLen_le : r.cmdLen ≤ 256
  cnt_le : r.cnt ≤ 256
  j_le : r.j ≤ 256

/-- The invariant of the Responder with the parity of its free values. -/
structure Responder.Good (p : Params) (r : Responder) : Prop extends Responder.Fits p r where
  receiving : r.eng.state.receiving = true → r.cd.listening = true
  sending : r.eng.state.sending = true → r.cd.replying = true
  cdOk : r.cdOk = true

theorem Responder.good_iff {p : Params} {r : Responder} :
    r.Good p ↔ r.inv p = true ∧ r.eng.draws % 2 = 0 := by
  simp only [Responder.inv, Bool.and_eq_true, decide_eq_true_eq, Bool.or_eq_true, Bool.not_eq_true',
    ← Bool.not_eq_true, ← imp_iff_not_or]
  constructor
  · rintro ⟨⟨heng, hpos, hle, hcnt, hj⟩, hrecv, hsend, hok⟩
    obtain ⟨hinv, hdraws⟩ := Engine.good_iff.1 heng
    exact ⟨⟨⟨⟨⟨⟨⟨⟨hinv, hpos⟩, hle⟩, hcnt⟩, hj⟩, hrecv⟩, hsend⟩, hok⟩, hdraws⟩
  · rintro ⟨⟨⟨⟨⟨⟨⟨⟨hinv, hpos⟩, hle⟩, hcnt⟩, hj⟩, hrecv⟩, hsend⟩, hok⟩, hdraws⟩
    exact ⟨⟨Engine.good_iff.2 ⟨hinv, hdraws⟩, hpos, hle, hcnt, hj⟩, hrecv, hsend, hok⟩

section
variable {p : Params} {r : Responder}

/-! #### What the CD's states ask of the registers -/

theorem Responder.cdOk_dispatch (h : r.cd = .dispatch) :
    r.cdOk = true ↔ r.cmdLen = r.eng.rxLen ∧ r.cmd = bufAt r.eng.rxBuf 0 := by
  simp [Responder.cdOk, h]

theorem Responder.cdOk_wAck (h : r.cd = .wAck) : r.cdOk = true ↔ r.cmdLen = r.eng.rxLen := by
  simp [Responder.cdOk, h]

theorem Responder.cdOk_rAck (h : r.cd = .rAck) : r.cdOk = true ↔ r.cmdLen = r.eng.rxLen := by
  simp [Responder.cdOk, h]

theorem Responder.cdOk_wDecode (h : r.cd = .wDecode) :
    r.cdOk = true ↔ r.cmdLen = r.eng.rxLen := by
  simp [Responder.cdOk, h]

theorem Responder.cdOk_rDecode (h : r.cd = .rDecode) :
    r.cdOk = true ↔ r.cmdLen = r.eng.rxLen := by
  simp [Responder.cdOk, h]

theorem Responder.cdOk_wCopy (h : r.cd = .wCopy) :
    r.cdOk = true ↔ r.cnt + 5 = r.eng.rxLen ∧ r.j < r.cnt := by
  simp [Responder.cdOk, h]

theorem Responder.cdOk_rCopy (h : r.cd = .rCopy) : r.cdOk = true ↔ r.j < r.cnt := by
  simp [Responder.cdOk, h]

theorem Responder.cdOk_rConf (h : r.cd = .rConf) :
    r.cdOk = true ↔ 1 ≤ r.cnt ∧ r.eng.txLen = r.cnt + 1 := by
  simp [Responder.cdOk, h]

/-- While the CD listens it asks nothing of its LE but the data reply's `TX_LEN`. -/
theorem Responder.onEng_cdOk_of_listening {f : Engine → Engine} (hl : r.cd.listening = true)
    (htx : (f r.eng).txLen = r.eng.txLen) (hok : r.cdOk = true) : (r.onEng f).cdOk = true := by
  cases hcd : r.cd with
  | awaitCmd | wConf => simp [Responder.cdOk, hcd]
  | rConf =>
    rw [Responder.cdOk_rConf hcd] at hok
    rw [Responder.cdOk_rConf (by exact hcd), Responder.onEng_eng, htx]
    exact hok
  | _ => simp [hcd, CdState.listening] at hl

/-- While the CD sends it asks nothing of its LE but the latched packet's `RX_LEN`. -/
theorem Responder.onEng_cdOk_of_replying {f : Engine → Engine} (hl : r.cd.replying = true)
    (hrx : (f r.eng).rxLen = r.eng.rxLen) (hok : r.cdOk = true) : (r.onEng f).cdOk = true := by
  cases hcd : r.cd with
  | csAck | wReply | rReply => simp [Responder.cdOk, hcd]
  | wAck =>
    rw [Responder.cdOk_wAck hcd] at hok
    rw [Responder.cdOk_wAck (by exact hcd), Responder.onEng_eng, hrx]
    exact hok
  | rAck =>
    rw [Responder.cdOk_rAck hcd] at hok
    rw [Responder.cdOk_rAck (by exact hcd), Responder.onEng_eng, hrx]
    exact hok
  | _ => simp [hcd, CdState.replying] at hl

/-! #### The register ranges -/

/-- With its LE idle, what is left of the Responder's invariant is what its CD state asks. -/
theorem Responder.Fits.good_of_idle (h : r.Fits p) (hi : r.eng.state = .idle)
    (hok : r.cdOk = true) : r.Good p :=
  { h with
    receiving := by simp [hi]
    sending := by simp [hi]
    cdOk := hok }

theorem Responder.Fits.onEng (h : r.Fits p) {f : Engine → Engine} (he : (f r.eng).Good p 0) :
    (r.onEng f).Fits p :=
  { h with eng := he }

theorem Responder.Fits.goto (h : r.Fits p) (cd : CdState) : (r.goto cd).Fits p :=
  { h with }

theorem Responder.Fits.latch (h : r.Fits p) : r.latch.Fits p :=
  { h with
    cmdLen_pos := h.eng.rxLen_pos
    cmdLen_le := h.eng.rxLen_le }

theorem Responder.Fits.makeAck (h : r.Fits p) (hi : r.eng.state = .idle) : r.makeAck.Fits p :=
  h.onEng (h.eng.stage_of_idle hi _)

theorem Responder.Fits.makeUnexpected (h : r.Fits p) (hi : r.eng.state = .idle) :
    r.makeUnexpected.Fits p :=
  h.onEng (h.eng.stage_of_idle hi _)

/-! #### The end of a link operation -/

@[simp] theorem Responder.ended_state : r.ended.eng.state = r.eng.state := by
  unfold Responder.ended
  split <;> repeat' split
  all_goals rfl

@[simp] theorem Responder.ended_result : r.ended.eng.result = r.eng.result := by
  unfold Responder.ended
  split <;> repeat' split
  all_goals rfl

@[simp] theorem Responder.reactIfIdle_state : r.reactIfIdle.eng.state = r.eng.state := by
  unfold Responder.reactIfIdle
  split <;> simp

@[simp] theorem Responder.reactIfIdle_result : r.reactIfIdle.eng.result = r.eng.result := by
  unfold Responder.reactIfIdle
  split <;> simp

/-- The "Recv" and "Send" rows of 41_dispatch.md rule R160 keep the Responder's invariant. -/
theorem Responder.Good.ended (h : r.Good p) (hi : r.eng.state = .idle) : r.ended.Good p := by
  unfold Responder.ended
  split
  next =>
    split
    · exact h.toFits.latch.good_of_idle hi (by simp [Responder.cdOk])
    · exact h
  next =>
    split
    · split
      · exact ((h.toFits.makeAck hi).goto _).good_of_idle hi rfl
      · exact ((h.toFits.makeUnexpected hi).goto _).good_of_idle hi rfl
    · exact h
  next =>
    split
    · split
      · exact (h.toFits.goto _).good_of_idle hi rfl
      · exact ((h.toFits.makeUnexpected hi).goto _).good_of_idle hi rfl
    · exact h
  next => exact (h.toFits.goto _).good_of_idle hi rfl
  next => exact (h.toFits.goto _).good_of_idle hi rfl
  next => exact (h.toFits.goto _).good_of_idle hi rfl
  next hcd =>
    split
    · exact (h.toFits.goto _).good_of_idle hi
        ((Responder.cdOk_wDecode rfl).2 ((Responder.cdOk_wAck hcd).1 h.cdOk))
    · exact (h.toFits.goto _).good_of_idle hi rfl
  next hcd =>
    split
    · exact (h.toFits.goto _).good_of_idle hi
        ((Responder.cdOk_rDecode rfl).2 ((Responder.cdOk_rAck hcd).1 h.cdOk))
    · exact (h.toFits.goto _).good_of_idle hi rfl
  all_goals exact h

/-- The CD's reaction keeps the Responder's invariant. -/
theorem Responder.Good.reactIfIdle (h : r.Good p) : r.reactIfIdle.Good p := by
  unfold Responder.reactIfIdle
  split
  next hi => exact h.ended hi
  · exact h

/-! #### A transfer -/

/-- An outstanding `Xfer` that yields keeps the Responder's invariant. -/
theorem Responder.Good.onYield (h : r.Good p) (hp : p.inRange = true) (hb : r.eng.state ≠ .idle)
    (y : Yield) : (r.onEng (Engine.onYield p y)).Good p := by
  obtain ⟨hrecv, hsend⟩ := Engine.onYield_goesOn (p := p) (e := r.eng) y
  refine { h.toFits.onEng (h.eng.onYield hp y) with
    receiving := fun hr => h.receiving (hrecv hr)
    sending := fun hs => h.sending (hsend hs)
    cdOk := ?_ }
  rcases LeState.receiving_or_sending hb with hr | ⟨hs, hr⟩
  · exact Responder.onEng_cdOk_of_listening (h.receiving hr) (Engine.onYield_txLen y) h.cdOk
  · exact Responder.onEng_cdOk_of_replying (h.sending hs) (Engine.onYield_rxLen hr y) h.cdOk

/-! #### The transitions with the LE idle -/

theorem Responder.Good.startReceive (h : r.Good p) (hp : p.inRange = true)
    (hl : r.cd.listening = true) : (r.onEng (startReceive p)).Good p :=
  { h.toFits.onEng (h.eng.startReceive hp) with
    receiving := fun _ => hl
    sending := nofun
    cdOk := Responder.onEng_cdOk_of_listening hl rfl h.cdOk }

theorem Responder.Good.startSend (h : r.Good p) (hp : p.inRange = true)
    (hi : r.eng.state = .idle) (hl : r.cd.replying = true) : (r.onEng (startSend p)).Good p :=
  { h.toFits.onEng (h.eng.startSend hp) with
    receiving := fun hr => absurd (Engine.startSend_receiving.symm.trans hr) nofun
    sending := fun _ => hl
    cdOk := Responder.onEng_cdOk_of_replying hl (Engine.startSend_rxLen (by simp [hi])) h.cdOk }

theorem Responder.Good.decodeCmd (h : r.Good p) (hi : r.eng.state = .idle)
    (hcd : r.cd = .dispatch) : r.decodeCmd.Good p := by
  obtain ⟨hlen, -⟩ := (Responder.cdOk_dispatch hcd).1 h.cdOk
  have hack := h.toFits.makeAck hi
  unfold Responder.decodeCmd
  split
  · exact (hack.goto _).good_of_idle hi rfl
  · split
    · exact (hack.goto _).good_of_idle hi ((Responder.cdOk_wAck rfl).2 hlen)
    · split
      · exact (hack.goto _).good_of_idle hi ((Responder.cdOk_rAck rfl).2 hlen)
      · exact (h.toFits.goto _).good_of_idle hi rfl

theorem Responder.Good.decodeWriteFields (h : r.Good p) (hi : r.eng.state = .idle)
    (hcd : r.cd = .wDecode) : r.decodeWriteFields.Good p := by
  have hlen := (Responder.cdOk_wDecode hcd).1 h.cdOk
  have hle := h.cmdLen_le
  unfold Responder.decodeWriteFields
  split
  · exact (h.toFits.goto _).good_of_idle hi rfl
  · refine Responder.Fits.good_of_idle
      { h with cnt_le := show r.cmdLen - 5 ≤ 256 by omega, j_le := Nat.zero_le _ } hi ?_
    by_cases hz : r.cmdLen - 5 = 0
    · simp [Responder.cdOk, hz]
    · simp [Responder.cdOk, hz]
      omega

theorem Responder.Fits.openReply (h : r.Fits p) (hi : r.eng.state = .idle) (addr : Word) {cnt : Nat}
    (hcnt : cnt ≤ 256) : (r.openReply addr cnt).Fits p :=
  { h with
    eng := Engine.InRange.good_of_idle { h.eng with } hi
    cnt_le := hcnt
    j_le := Nat.zero_le _ }

theorem countOf_range (v : Byte) : 1 ≤ countOf v ∧ countOf v ≤ 256 := lengthOf_range v

theorem Responder.Good.decodeReadFields (h : r.Good p) (hi : r.eng.state = .idle) :
    r.decodeReadFields.Good p := by
  unfold Responder.decodeReadFields
  split
  · exact (h.toFits.goto _).good_of_idle hi rfl
  · obtain ⟨hpos, hle⟩ := countOf_range (bufAt r.eng.rxBuf 5)
    exact (h.toFits.openReply hi _ hle).good_of_idle hi ((Responder.cdOk_rCopy rfl).2 hpos)

theorem Responder.Fits.closeReply (h : r.Fits p) (hi : r.eng.state = .idle) : r.closeReply.Fits p :=
  h.onEng (Engine.InRange.good_of_idle { h.eng with } hi)

end

/-! ### The Sender -/

/-- The invariant of the Sender with the parity of its free values. -/
structure Sender.Good (p : Params) (h : Sender) : Prop where
  eng : h.eng.Good p 1
  receiving : h.eng.state.receiving = true → h.xo = .recv
  sending : h.eng.state.sending = true → h.xo = .send

theorem Sender.good_iff {p : Params} {h : Sender} :
    h.Good p ↔ h.inv p = true ∧ h.eng.draws % 2 = 1 := by
  simp only [Sender.inv, Bool.and_eq_true, decide_eq_true_eq, Bool.or_eq_true, Bool.not_eq_true',
    ← Bool.not_eq_true, ← imp_iff_not_or]
  constructor
  · rintro ⟨heng, hrecv, hsend⟩
    obtain ⟨hinv, hdraws⟩ := Engine.good_iff.1 heng
    exact ⟨⟨⟨hinv, hrecv⟩, hsend⟩, hdraws⟩
  · rintro ⟨⟨⟨hinv, hrecv⟩, hsend⟩, hdraws⟩
    exact ⟨Engine.good_iff.2 ⟨hinv, hdraws⟩, hrecv, hsend⟩

section
variable {p : Params} {h : Sender}

/-- With its LE idle, what is left of the Sender's invariant is its LE's. -/
theorem Sender.good_of_idle (he : h.eng.Good p 1) (hi : h.eng.state = .idle) : h.Good p where
  eng := he
  receiving := by simp [hi]
  sending := by simp [hi]

theorem Sender.Good.begin (hg : h.Good p) (hi : h.eng.state = .idle) (b : List Byte) :
    (h.begin p b).Good p := by
  unfold Sender.begin
  split
  · exact Sender.good_of_idle (hg.eng.stage_of_idle hi b) hi
  · exact Sender.good_of_idle (Engine.InRange.good_of_idle { hg.eng with } hi) hi

/-! #### The end of a link operation -/

theorem Sender.Good.respondOk (hg : h.Good p) (hi : h.eng.state = .idle) (bytes : List Byte) :
    (h.respondOk bytes).Good p :=
  Sender.good_of_idle (hg.eng.log _) hi

theorem Sender.Good.respondErr (hg : h.Good p) (hi : h.eng.state = .idle) (k : ErrKind) :
    (h.respondErr k).Good p :=
  Sender.good_of_idle (hg.eng.log _) hi

theorem Sender.Good.afterSend (hg : h.Good p) (hi : h.eng.state = .idle) : h.afterSend.Good p := by
  unfold Sender.afterSend
  split
  · exact Sender.good_of_idle hg.eng hi
  · exact hg.respondErr hi _

theorem Sender.Good.afterReceive (hg : h.Good p) (hi : h.eng.state = .idle) :
    h.afterReceive.Good p := by
  unfold Sender.afterReceive
  split
  · exact hg.respondOk hi _
  · exact hg.respondErr hi _

@[simp] theorem Sender.afterSend_state : h.afterSend.eng.state = h.eng.state := by
  unfold Sender.afterSend
  split <;> rfl

@[simp] theorem Sender.afterSend_result : h.afterSend.eng.result = h.eng.result := by
  unfold Sender.afterSend
  split <;> rfl

@[simp] theorem Sender.afterReceive_state : h.afterReceive.eng.state = h.eng.state := by
  unfold Sender.afterReceive
  split <;> rfl

@[simp] theorem Sender.afterReceive_result : h.afterReceive.eng.result = h.eng.result := by
  unfold Sender.afterReceive
  split <;> rfl

@[simp] theorem Sender.reactIfIdle_state : h.reactIfIdle.eng.state = h.eng.state := by
  unfold Sender.reactIfIdle
  repeat' split
  all_goals simp

@[simp] theorem Sender.reactIfIdle_result : h.reactIfIdle.eng.result = h.eng.result := by
  unfold Sender.reactIfIdle
  repeat' split
  all_goals simp

theorem Sender.Good.reactIfIdle (hg : h.Good p) : h.reactIfIdle.Good p := by
  unfold Sender.reactIfIdle
  split
  next hi =>
    split
    · exact hg.afterSend hi
    · exact hg.afterReceive hi
    · exact hg
    · exact hg
  · exact hg

/-! #### Transfers and starts -/

/-- An outstanding `Xfer` that yields keeps the Sender's invariant. -/
theorem Sender.Good.onYield (hg : h.Good p) (hp : p.inRange = true) (y : Yield) :
    (h.onEng (Engine.onYield p y)).Good p := by
  obtain ⟨hrecv, hsend⟩ := Engine.onYield_goesOn (p := p) (e := h.eng) y
  exact ⟨hg.eng.onYield hp y, fun hr => hg.receiving (hrecv hr), fun hs => hg.sending (hsend hs)⟩

theorem Sender.Good.startSend (hg : h.Good p) (hp : p.inRange = true) (hx : h.xo = .send) :
    (h.onEng (startSend p)).Good p where
  eng := hg.eng.startSend hp
  receiving := fun hr => absurd (Engine.startSend_receiving.symm.trans hr) nofun
  sending := fun _ => hx

theorem Sender.Good.startReceive (hg : h.Good p) (hp : p.inRange = true) (hx : h.xo = .recv) :
    (h.onEng (startReceive p)).Good p where
  eng := hg.eng.startReceive hp
  receiving := fun _ => hx
  sending := nofun

end

end Sys2Proof.Machine
end

section
/-! SUPPORT. The invariant of the link as the two peers' invariants, and what each operation of the model
keeps of it, in the order of the model; then the two statements of it. -/

namespace Sys2Proof.Machine

/-- The Responder's part of the invariant. -/
structure State.TargetGood (s : State) : Prop where
  params : s.cfg.target.inRange = true
  target : s.target.Good s.cfg.target
  mem : s.mem.wf = true

/-- The Sender's part of the invariant. -/
structure State.HostGood (s : State) : Prop where
  params : s.cfg.host.inRange = true
  host : s.host.Good s.cfg.host

theorem State.inv_iff {s : State} : s.inv = true ↔ s.TargetGood ∧ s.HostGood := by
  simp only [State.inv, LinkParams.inRange, Bool.and_eq_true, decide_eq_true_eq]
  constructor
  · rintro ⟨⟨⟨⟨⟨⟨hpt, hph⟩, ht⟩, hh⟩, hmem⟩, hdt⟩, hdh⟩
    exact ⟨⟨hpt, Responder.good_iff.2 ⟨ht, hdt⟩, hmem⟩, hph, Sender.good_iff.2 ⟨hh, hdh⟩⟩
  · rintro ⟨⟨hpt, htarget, hmem⟩, hph, hhost⟩
    obtain ⟨ht, hdt⟩ := Responder.good_iff.1 htarget
    obtain ⟨hh, hdh⟩ := Sender.good_iff.1 hhost
    exact ⟨⟨⟨⟨⟨⟨hpt, hph⟩, ht⟩, hh⟩, hmem⟩, hdt⟩, hdh⟩

/-- The Responder's part rests on the Responder's side of the state alone. -/
theorem State.TargetGood.of_targetSide {s t : State} (h : s.TargetGood)
    (hst : t.targetSide = s.targetSide) : t.TargetGood := by
  obtain ⟨hcfg, htarget, hmem, -⟩ := State.targetSide_eq_iff.1 hst
  exact ⟨by rw [hcfg]; exact h.params, by rw [hcfg, htarget]; exact h.target, by rw [hmem]; exact h.mem⟩

/-- The Sender's part rests on the Sender's side of the state alone. -/
theorem State.HostGood.of_hostSide {s t : State} (h : s.HostGood)
    (hst : t.hostSide = s.hostSide) : t.HostGood := by
  obtain ⟨hcfg, hhost, -⟩ := State.hostSide_eq_iff.1 hst
  exact ⟨by rw [hcfg]; exact h.params, by rw [hcfg, hhost]; exact h.host⟩

section
variable {s : State}

/-! ### Between the phases of a transaction -/

/-- The Responder's part but for what its CD state asks: what holds between the phases of a
transaction. -/
structure State.TargetFits (s : State) : Prop where
  params : s.cfg.target.inRange = true
  target : s.target.Fits s.cfg.target
  mem : s.mem.wf = true

theorem State.TargetGood.fits (h : s.TargetGood) : s.TargetFits :=
  ⟨h.params, h.target.toFits, h.mem⟩

theorem State.TargetFits.good_of_idle (h : s.TargetFits) (hi : s.target.eng.state = .idle)
    (hok : s.target.cdOk = true) : s.TargetGood :=
  ⟨h.params, h.target.good_of_idle hi hok, h.mem⟩

theorem State.TargetFits.onTarget (h : s.TargetFits) {f : Responder → Responder}
    (hf : (f s.target).Fits s.cfg.target) : (s.onTarget f).TargetFits :=
  ⟨h.params, hf, h.mem⟩

theorem State.TargetFits.gotoCd (h : s.TargetFits) (cd : CdState) : (s.gotoCd cd).TargetFits :=
  h.onTarget (h.target.goto cd)

/-- With its LE idle the CD may go to a state that asks nothing of the registers. -/
theorem State.TargetFits.gotoCd_good (h : s.TargetFits) (hi : s.target.eng.state = .idle)
    {cd : CdState} (hcd : cd = .awaitCmd ∨ cd = .wConf) : (s.gotoCd cd).TargetGood := by
  refine (h.gotoCd cd).good_of_idle hi ?_
  rcases hcd with rfl | rfl <;> rfl

/-- The data reply closed, the CD awaits its confirmation. -/
theorem State.TargetFits.closeReply_good (h : s.TargetFits) (hi : s.target.eng.state = .idle)
    (hcnt : 1 ≤ s.target.cnt) : ((s.onTarget Responder.closeReply).gotoCd .rConf).TargetGood :=
  ((h.onTarget (h.target.closeReply hi)).gotoCd .rConf).good_of_idle hi
    ((Responder.cdOk_rConf rfl).2 ⟨hcnt, rfl⟩)

/-! ### The Responder's transitions -/

theorem State.TargetGood.onTarget (h : s.TargetGood) {f : Responder → Responder}
    (hf : (f s.target).Good s.cfg.target) : (s.onTarget f).TargetGood :=
  ⟨h.params, hf, h.mem⟩

theorem State.TargetGood.targetListen (h : s.TargetGood) (hl : s.target.cd.listening = true) :
    s.targetListen.TargetGood :=
  h.onTarget (h.target.startReceive h.params hl)

theorem State.TargetGood.targetSend (h : s.TargetGood) (hi : s.target.eng.state = .idle)
    (hl : s.target.cd.replying = true) : s.targetSend.TargetGood :=
  h.onTarget (h.target.startSend h.params hi hl).reactIfIdle

/-- One byte of a copy to memory, the copy with bytes left. -/
theorem State.TargetGood.wCopyStep (h : s.TargetGood) (hi : s.target.eng.state = .idle)
    (hcd : s.target.cd = .wCopy) : s.wCopyStep.TargetGood := by
  obtain ⟨hlen, hj⟩ := (Responder.cdOk_wCopy hcd).1 h.target.cdOk
  have hcnt := h.target.cnt_le
  rw [State.wCopyStep, if_pos hj]
  extract_lets s'
  have hfits : s'.target.Fits s'.cfg.target :=
    { h.target with eng := h.target.eng.log _, j_le := show s.target.j + 1 ≤ 256 by omega }
  have hmem : s'.mem.wf = true := State.wf_memWrite h.mem
  split
  · exact State.TargetFits.gotoCd_good (s := s') ⟨h.params, hfits, hmem⟩ hi (.inr rfl)
  next hne =>
    have hlt : s.target.j + 1 < s.target.cnt := Nat.lt_of_le_of_ne hj hne
    exact ⟨h.params, hfits.good_of_idle hi ((Responder.cdOk_wCopy (by exact hcd)).2 ⟨hlen, hlt⟩), hmem⟩

/-- One byte of a copy from memory, the copy with bytes left. -/
theorem State.TargetGood.rCopyStep (h : s.TargetGood) (hi : s.target.eng.state = .idle)
    (hcd : s.target.cd = .rCopy) : s.rCopyStep.TargetGood := by
  have hj := (Responder.cdOk_rCopy hcd).1 h.target.cdOk
  have hcnt := h.target.cnt_le
  rw [State.rCopyStep, if_pos hj]
  extract_lets s'
  have hfits : s'.target.Fits s'.cfg.target :=
    { h.target with
      eng := Engine.InRange.good_of_idle { h.target.eng with } hi
      j_le := show s.target.j + 1 ≤ 256 by omega }
  have hmem : s'.mem.wf = true := Memory.wf_storeAll h.mem
  split
  · exact State.TargetFits.closeReply_good (s := s') ⟨h.params, hfits, hmem⟩ hi (Nat.zero_lt_of_lt hj)
  next hne =>
    have hlt : s.target.j + 1 < s.target.cnt := Nat.lt_of_le_of_ne hj hne
    exact ⟨h.params, hfits.good_of_idle hi ((Responder.cdOk_rCopy (by exact hcd)).2 hlt), hmem⟩

/-- Every transition of the CD with its LE idle keeps the Responder's part. -/
theorem State.TargetGood.targetLocal (h : s.TargetGood) (hi : s.target.eng.state = .idle) :
    s.targetLocal.TargetGood := by
  unfold State.targetLocal
  split
  iterate 3 next hcd => exact h.targetListen (by simp [hcd, CdState.listening])
  iterate 5 next hcd => exact h.targetSend hi (by simp [hcd, CdState.replying])
  next hcd => exact h.onTarget (h.target.decodeCmd hi hcd)
  next hcd => exact h.onTarget (h.target.decodeWriteFields hi hcd)
  next => exact h.onTarget (h.target.decodeReadFields hi)
  next hcd => exact h.wCopyStep hi hcd
  next hcd => exact h.rCopyStep hi hcd

theorem State.TargetGood.targetYield (h : s.TargetGood) (hb : s.target.eng.state ≠ .idle)
    (y : Yield) : (s.targetYield y).TargetGood :=
  h.onTarget (h.target.onYield h.params hb y).reactIfIdle

theorem State.TargetGood.targetTick (h : s.TargetGood) : s.targetTick.TargetGood := by
  unfold State.targetTick
  split
  next hi => exact h.targetLocal hi
  next hb =>
    have hconsume : (s.onTarget (·.onEng Engine.consume)).TargetGood :=
      h.onTarget { h.target with eng := h.target.eng.consume }
    exact hconsume.targetYield hb _

theorem State.TargetGood.targetAlone (h : s.TargetGood) : s.targetAlone.TargetGood := by
  unfold State.targetAlone
  split
  · split
    next hi => exact h.targetLocal hi
    next hb => exact h.targetYield hb _
  · exact h.targetTick

/-- A reset input leaves the Responder in its invariant, its free values of the same parity. -/
theorem State.resetTarget_targetGood (hp : s.cfg.target.inRange = true)
    (hdraws : s.target.eng.draws % 2 = 0) (hmem : s.mem.wf = true) : s.resetTarget.TargetGood where
  params := hp
  target := Responder.Fits.good_of_idle
    { eng := Engine.toReset_good hdraws
      cmdLen_pos := Nat.le_refl 1
      cmdLen_le := show 1 ≤ 256 by decide
      cnt_le := Nat.zero_le _
      j_le := Nat.zero_le _ } rfl rfl
  mem := hmem

theorem State.TargetGood.resetTarget (h : s.TargetGood) : s.resetTarget.TargetGood :=
  State.resetTarget_targetGood h.params h.target.eng.draws h.mem

/-! ### The commands -/

theorem State.TargetFits.sendFromTarget (h : s.TargetFits) : s.sendFromTarget.TargetFits :=
  h.onTarget (h.target.onEng (h.target.eng.sendPacket h.params))

@[simp] theorem State.sendFromTarget_idle (s : State) : s.sendFromTarget.target.eng.state = .idle :=
  sendPacket_state

theorem State.TargetFits.sendAck (h : s.TargetFits) (hi : s.target.eng.state = .idle)
    (cd : CdState) : (s.sendAck cd).TargetFits :=
  (h.onTarget ((h.target.makeAck hi).goto cd)).sendFromTarget

@[simp] theorem State.sendAck_idle (s : State) (cd : CdState) : (s.sendAck cd).target.eng.state = .idle :=
  State.sendFromTarget_idle _

/-- A phase-2 reply, whatever it is, ends the transaction. -/
theorem State.TargetFits.sendReply (h : s.TargetFits) {make : Responder → Responder}
    (hmake : (make s.target).Fits s.cfg.target) (cd : CdState) : (s.sendReply make cd).TargetGood :=
  (h.onTarget (hmake.goto cd)).sendFromTarget.gotoCd_good (State.sendFromTarget_idle _) (.inl rfl)

theorem State.TargetFits.confirmWrite (h : s.TargetFits) (hi : s.target.eng.state = .idle)
    (opcode : Byte) : (s.confirmWrite opcode).TargetGood := by
  refine h.sendReply ?_ _
  split
  · exact h.target.makeAck hi
  · exact h.target.makeUnexpected hi

theorem State.TargetFits.confirmRead (h : s.TargetFits) (hi : s.target.eng.state = .idle)
    (opcode : Byte) : (s.confirmRead opcode).TargetGood := by
  refine h.sendReply ?_ _
  split
  · exact h.target
  · exact h.target.makeUnexpected hi

theorem State.TargetFits.runCheckStatus (h : s.TargetFits) (hi : s.target.eng.state = .idle) :
    s.runCheckStatus.TargetGood :=
  (h.sendAck hi .csAck).gotoCd_good (s.sendAck_idle .csAck) (.inl rfl)

theorem State.TargetFits.copyOut (h : s.TargetFits) {data : List Byte}
    (hj : s.target.j + data.length ≤ 256) : (s.copyOut data).TargetFits := by
  have hmem := State.wf_copyOut (data := data) h.mem
  rw [State.copyOut_spec] at hmem ⊢
  exact ⟨h.params, { h.target with eng := { h.target.eng with }, j_le := hj }, hmem⟩

@[simp] theorem State.copyOut_state (s : State) (data : List Byte) :
    (s.copyOut data).target.eng.state = s.target.eng.state := by
  rw [State.copyOut_spec]

theorem State.TargetFits.copyIn (h : s.TargetFits) (hi : s.target.eng.state = .idle) {n : Nat}
    (hj : s.target.j + n ≤ 256) : (s.copyIn n).TargetFits := by
  have hmem := State.wf_copyIn (n := n) h.mem
  rw [State.copyIn_spec] at hmem ⊢
  exact ⟨h.params, { h.target with
    eng := Engine.InRange.good_of_idle { h.target.eng with } hi, j_le := hj }, hmem⟩

@[simp] theorem State.copyIn_state (s : State) (n : Nat) :
    (s.copyIn n).target.eng.state = s.target.eng.state := by
  rw [State.copyIn_spec]

@[simp] theorem State.copyIn_cnt (s : State) (n : Nat) : (s.copyIn n).target.cnt = s.target.cnt := by
  rw [State.copyIn_spec]

/-- A WriteMemoryRegion of at most 251 data bytes ends in `AWAIT_CMD` or `W_CONF`. -/
theorem State.TargetFits.writePhase1 (h : s.TargetFits) (hi : s.target.eng.state = .idle)
    {ops : WriteOperands} (hwf : ops.wellFormed = true) : (s.writePhase1 ops).TargetGood := by
  cases ops with
  | short bytes => exact h.gotoCd_good hi (.inl rfl)
  | full addr data =>
    have hlen : data.length ≤ 251 := of_decide_eq_true hwf
    have hopen : (s.onTarget fun r =>
        { r with addr := addr, cnt := data.length, j := 0, cd := .wCopy }).TargetFits :=
      h.onTarget { h.target with
        cnt_le := show data.length ≤ 256 by omega
        j_le := Nat.zero_le _ }
    refine (hopen.copyOut ?_).gotoCd_good ((State.copyOut_state _ data).trans hi) (.inr rfl)
    show 0 + data.length ≤ 256
    omega

theorem State.TargetFits.runWrite (h : s.TargetFits) (hi : s.target.eng.state = .idle)
    {ops : WriteOperands} (hwf : ops.wellFormed = true) : (s.runWrite ops).TargetGood := by
  have hack := h.sendAck hi .wAck
  have hidle := s.sendAck_idle .wAck
  unfold State.runWrite
  extract_lets s'
  split
  · exact (hack.gotoCd .wDecode).writePhase1 hidle hwf
  · exact hack.gotoCd_good hidle (.inl rfl)

/-- A ReadMemoryRegion ends in `AWAIT_CMD`, or in `R_CONF` with its data reply in place. -/
theorem State.TargetFits.readPhase1 (h : s.TargetFits) (hi : s.target.eng.state = .idle)
    (ops : ReadOperands) : (s.readPhase1 ops).TargetGood := by
  cases ops with
  | short bytes => exact h.gotoCd_good hi (.inl rfl)
  | full addr countLess1 trailing =>
    obtain ⟨hpos, hle⟩ := countOf_range countLess1
    have hopen := h.onTarget (h.target.openReply hi addr hle)
    have hcopy := hopen.copyIn hi (n := countOf countLess1) (by simpa [Responder.openReply] using hle)
    exact hcopy.closeReply_good ((State.copyIn_state _ _).trans hi)
      (hpos.trans_eq (State.copyIn_cnt (s.onTarget (Responder.openReply addr _)) _).symm)

theorem State.TargetFits.runRead (h : s.TargetFits) (hi : s.target.eng.state = .idle)
    (ops : ReadOperands) : (s.runRead ops).TargetGood := by
  have hack := h.sendAck hi .rAck
  have hidle := s.sendAck_idle .rAck
  unfold State.runRead
  extract_lets s'
  split
  · exact (hack.gotoCd .rDecode).readPhase1 hidle ops
  · exact hack.gotoCd_good hidle (.inl rfl)

theorem State.TargetFits.onReservedCommand (h : s.TargetFits) (hi : s.target.eng.state = .idle)
    (opcode : Byte) : (s.onReservedCommand opcode).TargetGood := by
  unfold State.onReservedCommand
  split
  · exact h.confirmWrite hi opcode
  · exact h.confirmRead hi opcode
  · exact h.gotoCd_good hi (.inl rfl)

theorem State.TargetFits.onCommand (h : s.TargetFits) {i : Instr} {run : State → State}
    (hrun : i.wellFormed = true → s.target.eng.state = .idle → (run s).TargetGood) :
    NextMeets State.TargetGood (s.onCommand i run) :=
  s.onCommand_meets hrun (h.confirmWrite · _) (h.confirmRead · _)

/-- Every command keeps the Responder's part, in `DISPATCH` and in phase 2. -/
theorem State.TargetFits.exec (h : s.TargetFits) {i : Instr} (hd : i.direction = .h2t) :
    NextMeets State.TargetGood (exec i s) := by
  cases i with
  | checkStatus trailing => exact h.onCommand fun _ hi => h.runCheckStatus hi
  | writeMemoryRegion ops => exact h.onCommand fun hwf hi => h.runWrite hi hwf
  | readMemoryRegion ops => exact h.onCommand fun _ hi => h.runRead hi ops
  | readMemoryRegionData trailing => exact h.onCommand fun _ hi => h.gotoCd_good hi (.inl rfl)
  | rspUnexpectedCommand | rspOkWithChecksum _ | rspReadMemoryRegionData _ => cases hd

theorem State.TargetFits.runCommand (h : s.TargetFits) (hi : s.target.eng.state = .idle) :
    NextMeets State.TargetGood s.runCommand := by
  unfold State.runCommand
  split
  · next hdec => exact h.exec (decode_direction hdec)
  · exact (nextMeets_next _ _).2 (h.onReservedCommand hi _)

/-! ### The Responder's next packet -/

theorem State.TargetGood.receiveCommand_fits (h : s.TargetGood) : s.receiveCommand.TargetFits := by
  have hrecv := h.target.toFits.onEng (f := receivePacket s.cfg.target) h.target.eng.receivePacket
  refine h.fits.onTarget ?_
  extract_lets r'
  split
  · exact hrecv.latch
  · exact hrecv

@[simp] theorem State.receiveCommand_eng :
    s.receiveCommand.target.eng = receivePacket s.cfg.target s.target.eng := by
  rw [State.receiveCommand, State.onTarget_target]
  extract_lets r'
  split <;> rfl

theorem State.receiveCommand_idle : s.receiveCommand.target.eng.state = .idle := by
  simp

/-- A ReceivePacket that failed leaves the CD listening, the data reply in place. -/
theorem State.TargetGood.receiveCommand_failed (h : s.TargetGood)
    (hl : s.target.cd.listening = true) (herr : s.receiveCommand.target.eng.result ≠ .ok) :
    s.receiveCommand.TargetGood := by
  have heq : s.receiveCommand = s.onTarget (·.onEng (receivePacket s.cfg.target)) := by
    rw [State.receiveCommand_eng] at herr
    simp [State.receiveCommand, State.onTarget, herr]
  have hfits := h.receiveCommand_fits
  rw [heq] at hfits ⊢
  exact hfits.good_of_idle receivePacket_state
    (Responder.onEng_cdOk_of_listening hl receivePacket_txLen h.target.cdOk)

theorem State.TargetGood.listen (h : s.TargetGood) (hl : s.target.cd.listening = true) :
    NextMeets State.TargetGood s.listen := by
  unfold State.listen
  extract_lets s'
  split
  · exact h.receiveCommand_fits.runCommand State.receiveCommand_idle
  next herr => exact (nextMeets_next _ _).2 (h.receiveCommand_failed hl herr)

/-- The Responder's next packet keeps its part of the invariant. -/
theorem State.TargetGood.targetPacket (h : s.TargetGood) :
    NextMeets State.TargetGood s.targetPacket := by
  unfold State.targetPacket
  split
  · exact (nextMeets_next _ _).2 h.targetTick
  next hi =>
    replace hi : s.target.eng.state = .idle := by simpa using hi
    split
    iterate 3 next hcd => exact h.listen (by simp [hcd, CdState.listening])
    next => exact h.fits.runCommand hi
    all_goals exact (nextMeets_next _ _).2 (h.targetLocal hi)

/-! ### The Sender's transitions -/

theorem State.HostGood.onHost (h : s.HostGood) {f : Sender → Sender}
    (hf : (f s.host).Good s.cfg.host) : (s.onHost f).HostGood :=
  ⟨h.params, hf⟩

theorem State.HostGood.acceptRequest (h : s.HostGood) (hi : s.host.eng.state = .idle) :
    s.acceptRequest.HostGood := by
  unfold State.acceptRequest
  split
  · exact h
  · exact ⟨h.params, h.host.begin hi _⟩

/-- Every transition of the XO with its LE idle keeps the Sender's part. -/
theorem State.HostGood.hostLocal (h : s.HostGood) (hi : s.host.eng.state = .idle) :
    s.hostLocal.HostGood := by
  unfold State.hostLocal
  split
  next => exact h.acceptRequest hi
  next hx => exact h.onHost (h.host.startSend h.params hx).reactIfIdle
  next => exact h.onHost (Sender.good_of_idle h.host.eng hi)
  next hx => exact h.onHost (h.host.startReceive h.params hx)

theorem State.HostGood.hostYield (h : s.HostGood) (y : Yield) : (s.hostYield y).HostGood :=
  h.onHost (h.host.onYield h.params y).reactIfIdle

theorem State.HostGood.hostTick (h : s.HostGood) : s.hostTick.HostGood := by
  unfold State.hostTick
  split
  next hi => exact h.hostLocal hi
  next =>
    have hconsume : (s.onHost (·.onEng Engine.consume)).HostGood :=
      h.onHost { h.host with eng := h.host.eng.consume }
    exact hconsume.hostYield _

theorem State.HostGood.hostAlone (h : s.HostGood) : s.hostAlone.HostGood := by
  unfold State.hostAlone
  split
  · split
    next hi => exact h.hostLocal hi
    next => exact h.hostYield _
  · exact h.hostTick

/-- A reset input leaves the Sender in its invariant, its free values of the same parity. -/
theorem State.resetHost_hostGood (hp : s.cfg.host.inRange = true)
    (hdraws : s.host.eng.draws % 2 = 1) : s.resetHost.HostGood where
  params := hp
  host := Sender.good_of_idle (Engine.toReset_good hdraws) rfl

theorem State.HostGood.resetHost (h : s.HostGood) : s.resetHost.HostGood :=
  State.resetHost_hostGood h.params h.host.eng.draws

/-! ### The Sender's next exchange -/

theorem State.HostGood.awaitReply (h : s.HostGood) : NextMeets State.HostGood s.awaitReply := by
  have hi : s.receiveReply.host.eng.state = .idle := receivePacket_state
  have hrecv : s.receiveReply.HostGood :=
    h.onHost (Sender.good_of_idle h.host.eng.receivePacket receivePacket_state)
  exact s.awaitReply_meets (fun _ => hrecv.onHost (hrecv.host.respondOk hi _))
    (fun _ => hrecv.onHost (hrecv.host.respondErr hi _))

theorem State.HostGood.exchange (h : s.HostGood) : NextMeets State.HostGood s.exchange := by
  have hsent : (s.host.onEng (sendPacket s.cfg.host)).Good s.cfg.host :=
    Sender.good_of_idle (h.host.eng.sendPacket h.params) sendPacket_state
  have hsend : s.sendRequest.HostGood := h.onHost (hsent.afterSend sendPacket_state)
  exact s.exchange_meets hsend hsend.awaitReply

/-- The Sender's next exchange keeps its part of the invariant. -/
theorem State.HostGood.hostPacket (h : s.HostGood) : NextMeets State.HostGood s.hostPacket := by
  unfold State.hostPacket
  split
  · exact (nextMeets_next _ _).2 h.hostTick
  next hi =>
    replace hi : s.host.eng.state = .idle := by simpa using hi
    split
    · split
      · exact (nextMeets_next _ _).2 h
      · exact (h.acceptRequest hi).exchange
    · exact h.exchange
    · exact h.awaitReply
    · exact h.awaitReply

/-! ### Two linked peers -/

/-- A transition of the Responder that keeps its part keeps the whole. -/
theorem State.inv_of_target {t : State} (h : s.inv = true)
    (ht : s.TargetGood → t.TargetGood) (hside : t.hostSide = s.hostSide) : t.inv = true :=
  have ⟨htarget, hhost⟩ := State.inv_iff.1 h
  State.inv_iff.2 ⟨ht htarget, hhost.of_hostSide hside⟩

/-- A transition of the Sender that keeps its part keeps the whole. -/
theorem State.inv_of_host {t : State} (h : s.inv = true)
    (hh : s.HostGood → t.HostGood) (hside : t.targetSide = s.targetSide) : t.inv = true :=
  have ⟨htarget, hhost⟩ := State.inv_iff.1 h
  State.inv_iff.2 ⟨htarget.of_targetSide hside, hh hhost⟩

theorem State.inv_targetTick (h : s.inv = true) : s.targetTick.inv = true :=
  State.inv_of_target h .targetTick s.targetTick_hostSide

theorem State.inv_hostTick (h : s.inv = true) : s.hostTick.inv = true :=
  State.inv_of_host h .hostTick s.hostTick_targetSide

theorem State.inv_targetAlone (h : s.inv = true) : s.targetAlone.inv = true :=
  State.inv_of_target h .targetAlone s.targetAlone_hostSide

theorem State.inv_hostAlone (h : s.inv = true) : s.hostAlone.inv = true :=
  State.inv_of_host h .hostAlone s.hostAlone_targetSide

theorem State.inv_resetTarget (h : s.inv = true) : s.resetTarget.inv = true :=
  State.inv_of_target h .resetTarget s.resetTarget_hostSide

theorem State.inv_resetHost (h : s.inv = true) : s.resetHost.inv = true :=
  State.inv_of_host h .resetHost s.resetHost_targetSide

/-- Two outstanding `Xfer`s pair, whatever the channel makes of them. -/
theorem State.inv_pairXfers (h : s.inv = true) (hb : s.target.eng.state ≠ .idle) :
    s.pairXfers.inv = true := by
  unfold State.pairXfers
  extract_lets y
  have htarget : (({ s with noise := s.noise.tail } : State).targetYield y.1).inv = true :=
    State.inv_of_target (s := { s with noise := s.noise.tail }) h (·.targetYield hb _) rfl
  exact State.inv_of_host htarget (·.hostYield _) rfl

theorem State.inv_bothMove (h : s.inv = true) (hb : s.target.eng.state ≠ .idle)
    (who : Option Role) : (s.bothMove who).inv = true := by
  unfold State.bothMove
  split
  · exact State.inv_pairXfers h hb
  · unfold State.freeXfers
    split
    · exact State.inv_hostTick (State.inv_targetTick h)
    · exact State.inv_targetTick h
    · exact State.inv_hostTick h

theorem State.inv_oneMove (h : s.inv = true) (who : Option Role) : (s.oneMove who).inv = true := by
  unfold State.oneMove
  split
  · exact State.inv_targetAlone h
  · exact State.inv_hostAlone h
  · split
    · exact State.inv_targetAlone h
    · split
      · exact State.inv_targetAlone h
      · exact State.inv_hostAlone h

theorem State.inv_linkMove (h : s.inv = true) : s.linkMove.inv = true := by
  unfold State.linkMove
  extract_lets s'
  split
  next hb => exact State.inv_bothMove (s := s') h hb.1 _
  next => exact State.inv_oneMove (s := s') h _

theorem State.inv_linkStep (h : s.inv = true) : s.linkStep.inv = true := by
  unfold State.linkStep
  extract_lets s'
  have hs' : s'.inv = true := h
  split
  · exact State.inv_linkMove hs'
  · exact State.inv_hostAlone (State.inv_resetTarget hs')
  · exact State.inv_targetAlone (State.inv_resetHost hs')
  · exact State.inv_resetHost (State.inv_resetTarget hs')

/-! ### The turns -/

/-- What a Responder's packet keeps of its part, with the frame of its turn, keeps the whole. -/
theorem State.inv_targetPacket (h : s.inv = true) :
    NextMeets (fun t => t.inv = true) s.targetPacket := fun t ht =>
  State.inv_of_target h (·.targetPacket t ht) (s.targetPacket_hostSide t ht)

theorem State.inv_hostPacket (h : s.inv = true) :
    NextMeets (fun t => t.inv = true) s.hostPacket := fun t ht =>
  State.inv_of_host h (·.hostPacket t ht) (s.hostPacket_targetSide t ht)

/-- Every step keeps the invariant, by the schedule and whose turn it is. -/
theorem step_keeps_inv (h : s.inv = true) : NextMeets (fun t => t.inv = true) (step s) := by
  cases hs : s.schedule with
  | linked => 
    rw [step_of_linked hs]
    unfold State.linkTurn
    split
    · exact (nextMeets_next _ _).2 (State.inv_linkStep h)
    · simp
  | byPacket | byPort =>
    cases ht : s.turn with
    | responder =>
      rcases step_of_responder (by simp [hs]) ht with hstep | hstep <;> rw [hstep]
      · exact State.targetTurn_meets (State.inv_resetTarget h) (State.inv_targetPacket h)
      · exact State.targetTurn_meets (State.inv_resetTarget h)
          ((nextMeets_next _ _).2 (State.inv_targetTick h))
    | sender =>
      rcases step_of_sender (by simp [hs]) ht with hstep | hstep <;> rw [hstep]
      · exact State.hostTurn_meets (State.inv_resetHost h) (State.inv_hostPacket h)
      · exact State.hostTurn_meets (State.inv_resetHost h)
          ((nextMeets_next _ _).2 (State.inv_hostTick h))

end

/-- Settles O54: both parts of the invariant are kept by the peer that moves, and the other peer's side
of the state is left alone. -/
theorem stepKeepsInvariant : Obligations.StepKeepsInvariant :=
  fun _ t h hstep => step_keeps_inv h t hstep

end Sys2Proof.Machine
end

section
/-! SUPPORT. Reset (10_state.md rule R36, 70_reset_and_hazards.md rules R230-R235): the machine just out of
reset, and the step at which a reset input is asserted. -/

namespace Sys2Proof.Machine

/-! ### Just out of reset -/

theorem Config.targetParams_inRange : Config.targetParams.inRange = true := by
  simp [Params.inRange_iff, Config.targetParams, Config.pktMax, Config.addrBits]

theorem Config.hostParams_inRange : Config.hostParams.inRange = true := by
  simp [Params.inRange_iff, Config.hostParams, Config.targetParams, Config.pktMax, Config.addrBits]

/-- Settles O55: the machine just out of reset is what the two reset inputs make of it. -/
theorem resetMeetsInvariant : Obligations.ResetMeetsInvariant := by
  have htarget : State.reset.resetTarget.TargetGood :=
    State.resetTarget_targetGood Config.targetParams_inRange rfl Memory.wf_reset
  have hhost : State.reset.resetHost.HostGood :=
    State.resetHost_hostGood Config.hostParams_inRange rfl
  exact State.inv_iff.2 ⟨htarget, hhost⟩

/-- Settles O59, by the values `State.reset` gives the three registers. -/
theorem resetFsmStates : Obligations.ResetFsmStates :=
  ⟨rfl, rfl, rfl, rfl⟩

/-! ### A reset input, by packet and by port -/

section
variable {s : State}

theorem step_of_targetReset (hs : s.schedule ≠ .linked) (ht : s.turn = .responder)
    (hr : s.targetReset.headD false = true) : step s =
      .next ({ s with turn := .sender, targetReset := s.targetReset.tail } : State).resetTarget := by
  rcases step_of_responder hs ht with h | h <;> rw [h, State.targetTurn_of_reset hr]

theorem step_of_hostReset (hs : s.schedule ≠ .linked) (ht : s.turn = .sender)
    (hr : s.hostReset.headD false = true) : step s =
      .next ({ s with turn := .responder, hostReset := s.hostReset.tail } : State).resetHost := by
  rcases step_of_sender hs ht with h | h <;> rw [h, State.hostTurn_of_reset hr]

/-! ### What a transition rests on -/

/-- A transition of the XO rests on the parameters, its registers and the requests alone. -/
theorem State.hostLocal_host_congr {t : State} (hcfg : t.cfg = s.cfg) (hhost : t.host = s.host)
    (hreq : t.requests = s.requests) : t.hostLocal.host = s.hostLocal.host := by
  cases s
  cases t
  cases hcfg
  cases hhost
  cases hreq
  simp only [State.hostLocal, State.acceptRequest]
  split
  · split <;> rfl
  all_goals rfl

theorem State.wCopyStep_eq (s : State) : s.wCopyStep =
    if s.target.j < s.target.cnt then
      if s.target.j + 1 = s.target.cnt then
        (s.copyOutByte (bufAt s.target.eng.rxBuf (5 + s.target.j))).gotoCd .wConf
      else s.copyOutByte (bufAt s.target.eng.rxBuf (5 + s.target.j))
    else s.gotoCd .wConf :=
  rfl

theorem State.rCopyStep_eq (s : State) : s.rCopyStep =
    if s.target.j < s.target.cnt then
      if s.target.j + 1 = s.target.cnt then
        (s.copyInByte.onTarget Responder.closeReply).gotoCd .rConf
      else s.copyInByte
    else (s.onTarget Responder.closeReply).gotoCd .rConf :=
  rfl

/-- A transition of the CD rests on the parameters, its registers, memory and the other agents' stores
alone. -/
theorem State.targetLocal_congr {t : State} (hcfg : t.cfg = s.cfg) (htarget : t.target = s.target)
    (hmem : t.mem = s.mem) (hstores : t.otherStores = s.otherStores) :
    t.targetLocal.target = s.targetLocal.target ∧ t.targetLocal.mem = s.targetLocal.mem := by
  cases s
  cases t
  cases hcfg
  cases htarget
  cases hmem
  cases hstores
  simp only [State.targetLocal, State.wCopyStep_eq, State.rCopyStep_eq]
  constructor
  all_goals
    repeat' split
    all_goals rfl

/-! ### Two linked peers -/

theorem step_of_compatible (hs : s.schedule = .linked) (hc : s.cfg.compatible = true) :
    step s = .next s.linkStep := by
  rw [step_of_linked hs, State.linkTurn, if_pos hc]

theorem State.hostAlone_of_idle (hc : s.cfg.channel = .lockstep) (hi : s.host.eng.state = .idle) :
    s.hostAlone = s.hostLocal := by
  simp [State.hostAlone, hc, hi, Channel.lockstep]

/-- On the lockstep channel the `Xfer` of a Sender alone times out. -/
theorem State.hostAlone_of_busy (hc : s.cfg.channel = .lockstep) (hb : s.host.eng.state ≠ .idle) :
    s.hostAlone = s.hostYield .timeout := by
  simp [State.hostAlone, hc, hb, Channel.lockstep, loneYield]

theorem State.targetAlone_of_idle (hc : s.cfg.channel = .lockstep) (hi : s.target.eng.state = .idle) :
    s.targetAlone = s.targetLocal := by
  simp [State.targetAlone, hc, hi, Channel.lockstep]

/-- On the lockstep channel the `Xfer` of a Responder alone times out. -/
theorem State.targetAlone_of_busy (hc : s.cfg.channel = .lockstep) (hb : s.target.eng.state ≠ .idle) :
    s.targetAlone = s.targetYield .timeout := by
  simp [State.targetAlone, hc, hb, Channel.lockstep, loneYield]

/-- A `Timeout` ends the Sender's operation with BYTE_TIMEOUT, whatever the XO makes of it. -/
theorem State.hostYield_timeout : (s.hostYield .timeout).host.eng.state = .idle ∧
    (s.hostYield .timeout).host.eng.result = .err .byteTimeout :=
  ⟨Sender.reactIfIdle_state, Sender.reactIfIdle_result⟩

/-- A `Timeout` ends the Responder's operation with BYTE_TIMEOUT, whatever the CD makes of it. -/
theorem State.targetYield_timeout : (s.targetYield .timeout).target.eng.state = .idle ∧
    (s.targetYield .timeout).target.eng.result = .err .byteTimeout :=
  ⟨Responder.reactIfIdle_state, Responder.reactIfIdle_result⟩

/-- The Sender goes on alone beside a Responder in reset. -/
theorem State.linkStep_of_targetReset (ht : s.targetReset.headD false = true)
    (hh : s.hostReset.headD false = false) : s.linkStep =
      ({ s with targetReset := s.targetReset.tail, hostReset := s.hostReset.tail } :
        State).resetTarget.hostAlone := by
  simp only [State.linkStep, ht, hh]

/-- The Responder goes on alone beside a Sender in reset. -/
theorem State.linkStep_of_hostReset (ht : s.targetReset.headD false = false)
    (hh : s.hostReset.headD false = true) : s.linkStep =
      ({ s with targetReset := s.targetReset.tail, hostReset := s.hostReset.tail } :
        State).resetHost.targetAlone := by
  simp only [State.linkStep, ht, hh]

theorem State.linkStep_of_bothReset (ht : s.targetReset.headD false = true)
    (hh : s.hostReset.headD false = true) : s.linkStep =
      ({ s with targetReset := s.targetReset.tail, hostReset := s.hostReset.tail } :
        State).resetTarget.resetHost := by
  simp only [State.linkStep, ht, hh]

/-- Whatever the Sender does, a Responder whose reset input is asserted is reset. -/
theorem State.linkStep_targetSide_of_targetReset (ht : s.targetReset.headD false = true) :
    s.linkStep.targetSide = ({ s with targetReset := s.targetReset.tail } :
      State).resetTarget.targetSide := by
  cases hh : s.hostReset.headD false with
  | false =>
    rw [State.linkStep_of_targetReset ht hh, State.hostAlone_targetSide]
    rfl
  | true =>
    rw [State.linkStep_of_bothReset ht hh]
    rfl

/-- Whatever the Responder does, a Sender whose reset input is asserted is reset. -/
theorem State.linkStep_hostSide_of_hostReset (hh : s.hostReset.headD false = true) :
    s.linkStep.hostSide = ({ s with hostReset := s.hostReset.tail } :
      State).resetHost.hostSide := by
  cases ht : s.targetReset.headD false with
  | false =>
    rw [State.linkStep_of_hostReset ht hh, State.targetAlone_hostSide]
    rfl
  | true =>
    rw [State.linkStep_of_bothReset ht hh]
    rfl

/-- On the lockstep channel a Sender with its LE idle makes its own transition beside a reset. -/
theorem State.linkStep_host_of_idle (ht : s.targetReset.headD false = true)
    (hh : s.hostReset.headD false = false) (hc : s.cfg.channel = .lockstep)
    (hi : s.host.eng.state = .idle) : s.linkStep.host = s.hostLocal.host := by
  rw [State.linkStep_of_targetReset ht hh, State.hostAlone_of_idle (by exact hc) (by exact hi)]
  exact State.hostLocal_host_congr rfl rfl rfl

/-- On the lockstep channel a Sender with its LE in an operation times out beside a reset. -/
theorem State.linkStep_host_of_busy (ht : s.targetReset.headD false = true)
    (hh : s.hostReset.headD false = false) (hc : s.cfg.channel = .lockstep)
    (hb : s.host.eng.state ≠ .idle) : s.linkStep.host = (s.hostYield .timeout).host := by
  rw [State.linkStep_of_targetReset ht hh, State.hostAlone_of_busy (by exact hc) (by exact hb)]
  rfl

/-- On the lockstep channel a Responder with its LE idle makes its own transition beside a reset. -/
theorem State.linkStep_target_of_idle (ht : s.targetReset.headD false = false)
    (hh : s.hostReset.headD false = true) (hc : s.cfg.channel = .lockstep)
    (hi : s.target.eng.state = .idle) :
    s.linkStep.target = s.targetLocal.target ∧ s.linkStep.mem = s.targetLocal.mem := by
  rw [State.linkStep_of_hostReset ht hh, State.targetAlone_of_idle (by exact hc) (by exact hi)]
  exact State.targetLocal_congr rfl rfl rfl rfl

/-- On the lockstep channel a Responder with its LE in an operation times out beside a reset, memory as
it was. -/
theorem State.linkStep_target_of_busy (ht : s.targetReset.headD false = false)
    (hh : s.hostReset.headD false = true) (hc : s.cfg.channel = .lockstep)
    (hb : s.target.eng.state ≠ .idle) :
    s.linkStep.target = (s.targetYield .timeout).target ∧ s.linkStep.mem = s.mem := by
  rw [State.linkStep_of_hostReset ht hh, State.targetAlone_of_busy (by exact hc) (by exact hb)]
  exact ⟨rfl, rfl⟩

end

/-- Settles O58: the reset input is looked at before anything else, and the peer beside it rests on its
own side of the state. -/
theorem resetStep : Obligations.ResetStep := by
  intro s
  refine ⟨fun hs ht hr => ⟨_, step_of_targetReset hs ht hr, rfl, rfl, rfl, rfl, rfl, rfl⟩,
    fun hs ht hr => ⟨_, step_of_hostReset hs ht hr, rfl, rfl, rfl, rfl, rfl, rfl⟩, ?_, ?_⟩
  · intro hs hc hr
    obtain ⟨hcfg, htarget, hmem, -⟩ :=
      State.targetSide_eq_iff.1 (State.linkStep_targetSide_of_targetReset hr)
    refine ⟨_, step_of_compatible hs hc, by rw [htarget]; rfl, by rw [htarget]; rfl,
      by rw [htarget]; rfl, hmem, hcfg, fun hh hlock => ⟨State.linkStep_host_of_idle hr hh hlock, ?_⟩⟩
    intro hb
    have hhost := State.linkStep_host_of_busy hr hh hlock hb
    exact ⟨hhost, hhost ▸ State.hostYield_timeout⟩
  · intro hs hc hr
    obtain ⟨hcfg, hhost, -⟩ := State.hostSide_eq_iff.1 (State.linkStep_hostSide_of_hostReset hr)
    refine ⟨_, step_of_compatible hs hc, by rw [hhost]; rfl, by rw [hhost]; rfl,
      by rw [hhost]; rfl, hcfg, fun ht hlock => ⟨State.linkStep_target_of_idle ht hr hlock, ?_⟩⟩
    intro hb
    obtain ⟨htarget, hmem⟩ := State.linkStep_target_of_busy ht hr hlock hb
    exact ⟨htarget, hmem, htarget ▸ State.targetYield_timeout⟩

end Sys2Proof.Machine
end

section
/-! SUPPORT. The machine goes on (20_memory.md rule R59, 41_dispatch.md rule R140, 60_exceptions.md rule
R223): a packet that decodes is well formed, it is run only where it has been delivered, and so no
meaning's fault or refusal is reached. In the order of the model, then the statement. -/

namespace Sys2Proof.Machine

/-- A step or an instruction answers a next state. -/
def Continues (o : Host.Outcome State Fault Refusal) : Prop := ∃ t, o = .next t

@[simp] theorem continues_next (t : State) : Continues (.next t) := ⟨t, rfl⟩

/-! ### A decoded packet is well formed -/

theorem decodeWrite_wellFormed {rest : List Byte} (h : rest.length ≤ 255) :
    (decodeWrite rest).wellFormed = true := by
  match rest with
  | [] | [_] | [_, _] | [_, _, _] => rfl
  | _ :: _ :: _ :: _ :: data =>
    simp only [List.length_cons] at h
    simp only [decodeWrite, WriteOperands.wellFormed, decide_eq_true_eq]
    omega

theorem decodeRead_wellFormed {rest : List Byte} (h : rest.length ≤ 255) :
    (decodeRead rest).wellFormed = true := by
  match rest with
  | [] | [_] | [_, _] | [_, _, _] | [_, _, _, _] => rfl
  | _ :: _ :: _ :: _ :: _ :: trailing =>
    simp only [List.length_cons] at h
    simp only [decodeRead, ReadOperands.wellFormed, decide_eq_true_eq]
    omega

theorem decodeCommand_wellFormed {opcode : Byte} {rest : List Byte} {i : Instr}
    (hlen : rest.length ≤ 255) (h : decodeCommand opcode rest = .ok i) : i.wellFormed = true := by
  unfold decodeCommand at h
  repeat' split at h
  all_goals cases h
  · exact decide_eq_true hlen
  · exact decodeWrite_wellFormed hlen
  · exact decodeRead_wellFormed hlen
  · exact decide_eq_true hlen

theorem decodeResponse_wellFormed {opcode : Byte} {rest : List Byte} {i : Instr}
    (hlen : rest.length ≤ 255) (h : decodeResponse opcode rest = .ok i) : i.wellFormed = true := by
  unfold decodeResponse decodeOk at h
  repeat' split at h
  all_goals cases h
  · rfl
  · rfl
  next hne =>
    have hpos : 1 ≤ rest.length := List.length_pos_of_ne_nil hne
    simp [Instr.wellFormed, hpos, hlen]

/-- The decoder answers no instruction that a packet of 1 to 256 bytes does not carry (30_encoding.md
rule R72). -/
theorem decode_wellFormed {d : Direction} {bs : List Byte} {i : Instr} (h : decode d bs = .ok i) :
    i.wellFormed = true := by
  cases bs with
  | nil => cases h
  | cons opcode rest =>
    simp only [decode] at h
    split at h
    · cases h
    next hlen =>
      cases d with
      | h2t => exact decodeCommand_wellFormed (Nat.le_of_not_lt hlen) h
      | t2h => exact decodeResponse_wellFormed (Nat.le_of_not_lt hlen) h

section
variable {s : State}

/-! ### The Responder -/

/-- The CD's states in which it runs a delivered packet (41_dispatch.md rules R142, R148). -/
def CdState.runsPacket : CdState → Bool
  | .dispatch | .wConf | .rConf => true
  | _ => false

theorem CdState.runsPacket_iff {cd : CdState} :
    cd.runsPacket = true ↔ cd = .dispatch ∨ cd = .wConf ∨ cd = .rConf := by
  cases cd <;> simp [CdState.runsPacket]

/-- A listening CD is in `AWAIT_CMD` or takes the packet as the confirmation (41_dispatch.md rules R141,
R147). -/
theorem CdState.awaitCmd_or_runsPacket {cd : CdState} (hl : cd.listening = true) :
    cd = .awaitCmd ∨ cd.runsPacket = true := by
  cases cd <;> simp_all [CdState.listening, CdState.runsPacket]

theorem State.onCommand_continues {i : Instr} {run : State → State} (hwf : i.wellFormed = true)
    (hi : s.target.eng.state = .idle) (hcd : s.target.cd.runsPacket = true) :
    Continues (s.onCommand i run) := by
  rw [State.onCommand, if_neg (by simp [hwf]), if_neg (by simp [hi])]
  rcases CdState.runsPacket_iff.1 hcd with h | h | h <;> rw [h] <;> exact continues_next _

theorem exec_command_continues {i : Instr} (hd : i.direction = .h2t) (hwf : i.wellFormed = true)
    (hi : s.target.eng.state = .idle) (hcd : s.target.cd.runsPacket = true) :
    Continues (exec i s) := by
  cases i with
  | checkStatus _ | writeMemoryRegion _ | readMemoryRegion _ | readMemoryRegionData _ =>
    exact s.onCommand_continues hwf hi hcd
  | rspUnexpectedCommand | rspOkWithChecksum _ | rspReadMemoryRegionData _ => cases hd

/-- Whatever its bytes, a packet delivered to the CD is run. -/
theorem State.runCommand_continues (hi : s.target.eng.state = .idle)
    (hcd : s.target.cd.runsPacket = true) : Continues s.runCommand := by
  unfold State.runCommand
  split
  next hdec => exact exec_command_continues (decode_direction hdec) (decode_wellFormed hdec) hi hcd
  · exact continues_next _

/-- A ReceivePacket that succeeded leaves the CD where it runs the packet. -/
theorem State.receiveCommand_runsPacket (hl : s.target.cd.listening = true)
    (hok : s.receiveCommand.target.eng.result = .ok) :
    s.receiveCommand.target.cd.runsPacket = true := by
  rw [State.receiveCommand_eng] at hok
  rw [State.receiveCommand, State.onTarget_target]
  extract_lets r'
  split
  · rfl
  next hne =>
    exact (CdState.awaitCmd_or_runsPacket hl).resolve_left fun hawait => hne ⟨hawait, hok⟩

theorem State.listen_continues (hl : s.target.cd.listening = true) : Continues s.listen := by
  unfold State.listen
  extract_lets s'
  split
  next hok =>
    exact State.runCommand_continues State.receiveCommand_idle
      (State.receiveCommand_runsPacket hl hok)
  · exact continues_next _

/-- The Responder's next packet, in every state of its LE and its CD. -/
theorem State.targetPacket_continues (s : State) : Continues s.targetPacket := by
  unfold State.targetPacket
  split
  · exact continues_next _
  next hi =>
    replace hi : s.target.eng.state = .idle := by simpa using hi
    split
    iterate 3 next hcd => exact s.listen_continues (by simp [hcd, CdState.listening])
    next hcd => exact s.runCommand_continues hi (by simp [hcd, CdState.runsPacket])
    all_goals exact continues_next _

/-! ### The Sender -/

/-- Whatever its bytes, a reply delivered to the XO goes upstream. -/
theorem State.runReply_continues (hi : s.host.eng.state = .idle) (hxo : s.host.xo = .recv) :
    Continues s.runReply := by
  unfold State.runReply
  split
  next hdec =>
    rw [exec_response s (decode_direction hdec), State.onReply,
      if_neg (by simp [decode_wellFormed hdec]), if_neg (by simp [hi]), hxo]
    exact continues_next _
  · exact continues_next _

theorem State.awaitReply_continues (s : State) : Continues s.awaitReply := by
  unfold State.awaitReply
  extract_lets s'
  split
  · exact s'.runReply_continues receivePacket_state rfl
  · exact continues_next _

theorem State.exchange_continues (s : State) : Continues s.exchange := by
  unfold State.exchange
  extract_lets s'
  split
  · exact s'.awaitReply_continues
  · exact continues_next _

/-- The Sender's next exchange, in every state of its LE and its XO. -/
theorem State.hostPacket_continues (s : State) : Continues s.hostPacket := by
  unfold State.hostPacket
  split
  · exact continues_next _
  · split
    · split
      · exact continues_next _
      · exact s.acceptRequest.exchange_continues
    · exact s.exchange_continues
    · exact s.awaitReply_continues
    · exact s.awaitReply_continues

/-! ### The turns -/

variable {act : State → Host.Outcome State Fault Refusal}

theorem State.targetTurn_continues (hact : ∀ s, Continues (act s)) :
    Continues (s.targetTurn act) := by
  unfold State.targetTurn
  extract_lets s'
  split
  · exact continues_next _
  · exact hact s'

theorem State.hostTurn_continues (hact : ∀ s, Continues (act s)) : Continues (s.hostTurn act) := by
  unfold State.hostTurn
  extract_lets s'
  split
  · exact continues_next _
  · exact hact s'

/-- No step stops, by the schedule and whose turn it is. A packet is run in the step that fetched it
or from `DISPATCH`, with the LE idle, so the invariant is not needed. -/
theorem step_continues (hc : s.schedule = .linked → s.cfg.compatible = true) :
    Continues (step s) := by
  cases hs : s.schedule with
  | linked => exact ⟨_, step_of_compatible hs (hc hs)⟩
  | byPacket | byPort =>
    cases ht : s.turn with
    | responder =>
      rcases step_of_responder (by simp [hs]) ht with hstep | hstep <;> rw [hstep]
      · exact State.targetTurn_continues State.targetPacket_continues
      · exact State.targetTurn_continues fun _ => continues_next _
    | sender =>
      rcases step_of_sender (by simp [hs]) ht with hstep | hstep <;> rw [hstep]
      · exact State.hostTurn_continues State.hostPacket_continues
      · exact State.hostTurn_continues fun _ => continues_next _

end

/-- Settles O56: every packet a step runs is one the decoder answered, delivered where it is run. -/
theorem machineNeverStops : Obligations.MachineNeverStops :=
  fun _ _ hcompat => step_continues hcompat

end Sys2Proof.Machine
end

section
/-! SUPPORT. Byte order (20_memory.md rule R52, 30_encoding.md rule R91): a word is its four bytes side by
side, and so nothing is lost by splitting or assembling it; then the statement. -/

namespace Sys2Proof.Machine

/-- The big-endian word is the four bytes side by side, the first the highest. -/
theorem beWord_eq_append (b3 b2 b1 b0 : Byte) : beWord b3 b2 b1 b0 = b3 ++ b2 ++ b1 ++ b0 := by
  refine BitVec.eq_of_getLsbD_eq fun i _ => ?_
  grind [beWord]

theorem leBytes_eq_reverse (w : Word) : leBytes w = (beBytes w).reverse := rfl

theorem beWord_toNat (b3 b2 b1 b0 : Byte) : (beWord b3 b2 b1 b0).toNat =
    b3.toNat * 2 ^ 24 + b2.toNat * 2 ^ 16 + b1.toNat * 2 ^ 8 + b0.toNat := by
  rw [beWord_eq_append]
  simp only [BitVec.toNat_append]
  rw [← Nat.shiftLeft_add_eq_or_of_lt b2.isLt, ← Nat.shiftLeft_add_eq_or_of_lt b1.isLt,
    ← Nat.shiftLeft_add_eq_or_of_lt b0.isLt]
  simp only [Nat.shiftLeft_eq]
  omega

/-- Splitting an assembled word gives its bytes back. -/
theorem beBytes_beWord (b3 b2 b1 b0 : Byte) : beBytes (beWord b3 b2 b1 b0) = [b3, b2, b1, b0] := by
  have h3 : (b3 ++ b2 ++ b1 ++ b0).extractLsb' 24 8 = b3 := by
    rw [BitVec.extractLsb'_append_eq_of_le (by decide),
      BitVec.extractLsb'_append_eq_of_le (by decide)]
    exact BitVec.extractLsb'_append_eq_left
  have h2 : (b3 ++ b2 ++ b1 ++ b0).extractLsb' 16 8 = b2 := by
    rw [BitVec.extractLsb'_append_eq_of_le (by decide),
      BitVec.extractLsb'_append_eq_of_le (by decide)]
    exact BitVec.extractLsb'_append_eq_right
  have h1 : (b3 ++ b2 ++ b1 ++ b0).extractLsb' 8 8 = b1 := by
    rw [BitVec.extractLsb'_append_eq_of_le (by decide)]
    exact BitVec.extractLsb'_append_eq_right
  have h0 : (b3 ++ b2 ++ b1 ++ b0).extractLsb' 0 8 = b0 := BitVec.extractLsb'_append_eq_right
  rw [beWord_eq_append, beBytes, h3, h2, h1, h0]

/-- Assembling the bytes of a word gives the word back. -/
theorem beWord_of_bytes (w : Word) : beWord (w.extractLsb' 24 8) (w.extractLsb' 16 8)
    (w.extractLsb' 8 8) (w.extractLsb' 0 8) = w := by
  rw [beWord_eq_append,
    BitVec.extractLsb'_append_extractLsb'_eq_extractLsb' (start₂ := 24) (start₁ := 16) rfl,
    BitVec.extractLsb'_append_extractLsb'_eq_extractLsb' (start₂ := 16) (start₁ := 8) rfl,
    BitVec.extractLsb'_append_extractLsb'_eq_extractLsb' (start₂ := 8) (start₁ := 0) rfl]
  exact BitVec.extractLsb'_eq_self

theorem leBytes_leWord (b0 b1 b2 b3 : Byte) : leBytes (leWord b0 b1 b2 b3) = [b0, b1, b2, b3] := by
  rw [leBytes_eq_reverse, leWord, beBytes_beWord]
  rfl

/-- Settles O2: the big-endian laws, the little-endian ones read in reverse. -/
theorem wordByteOrder : Obligations.WordByteOrder :=
  ⟨beWord_toNat,
    fun w => ⟨_, _, _, _, rfl, rfl, beWord_of_bytes w, beWord_of_bytes w⟩,
    fun b3 b2 b1 b0 => ⟨beBytes_beWord b3 b2 b1 b0, leBytes_leWord b3 b2 b1 b0⟩⟩

end Sys2Proof.Machine
end

section
/-! SUPPORT. The target memory port (20_memory.md rules R51, R56, R57, R60): what a transition of the
Responder outside the copies leaves alone, each copy transition as a whole, and the accesses of a whole
copy; then the two statements. -/

namespace Sys2Proof.Machine

/-! ### Transitions that make no access -/

section
variable (p : Params) (e : Engine)

@[simp] theorem startSend_port : (startSend p e).port = e.port := by
  unfold startSend
  split
  · exact e.abort_port _
  · rfl

@[simp] theorem Engine.searchMiss_port : (e.searchMiss p).port = e.port := by
  unfold Engine.searchMiss
  split
  · exact Engine.abort_port _ _
  · rfl

@[simp] theorem Engine.paid_port : e.paid.port = e.port := by
  unfold Engine.paid
  extract_lets e'
  split <;> rfl

@[simp] theorem Engine.took_port (v : Byte) : (e.took v).port = e.port := by
  unfold Engine.took
  extract_lets e'
  split <;> rfl

@[simp] theorem Engine.onByte_port (v : Byte) : (e.onByte p v).port = e.port := by
  cases hs : e.state with
  | idle | sConfirm | sLen | sPay | rEcho | rLen | rPay =>
    simp [Engine.onByte, hs, Engine.confirmed, Engine.echoed]
  | sSearch => by_cases hv : v = p.hsSend <;> simp [Engine.onByte, hs, hv, Engine.sendMatched]
  | rSearch => by_cases hv : v = p.hsRecv <;> simp [Engine.onByte, hs, hv]

/-- What an outstanding `Xfer` yields, it logs; the table's row logs nothing more. -/
theorem Engine.onYield_trace (y : Yield) :
    (e.onYield p y).port.trace = e.port.trace ++ [.xfer (e.txByte p) y] := by
  cases y <;> simp [Engine.onYield]

end

@[simp] theorem Responder.ended_port (r : Responder) : r.ended.eng.port = r.eng.port := by
  unfold Responder.ended
  split <;> repeat' split
  all_goals rfl

@[simp] theorem Responder.reactIfIdle_port (r : Responder) :
    r.reactIfIdle.eng.port = r.eng.port := by
  unfold Responder.reactIfIdle
  split <;> simp

@[simp] theorem Responder.decodeCmd_port (r : Responder) : r.decodeCmd.eng.port = r.eng.port := by
  unfold Responder.decodeCmd
  repeat' split
  all_goals rfl

@[simp] theorem Responder.decodeWriteFields_port (r : Responder) :
    r.decodeWriteFields.eng.port = r.eng.port := by
  unfold Responder.decodeWriteFields
  split <;> rfl

@[simp] theorem Responder.decodeReadFields_port (r : Responder) :
    r.decodeReadFields.eng.port = r.eng.port := by
  unfold Responder.decodeReadFields
  split <;> rfl

/-- The transition from `s` to `t` leaves memory as it was and logs no access. -/
def NoAccess (s t : State) : Prop :=
  t.mem = s.mem ∧ t.otherStores = s.otherStores ∧
    ∀ ev ∈ newEvents s.target.eng.port.trace t.target.eng.port.trace, ev.isAccess = false

section
variable {s : State}

/-- A change of the Responder that logs no access. -/
theorem State.onTarget_noAccess {f : Responder → Responder} {evs : List PortEvent}
    (hport : (f s.target).eng.port.trace = s.target.eng.port.trace ++ evs)
    (hevs : ∀ ev ∈ evs, ev.isAccess = false) : NoAccess s (s.onTarget f) :=
  ⟨rfl, rfl, by simpa [newEvents, hport] using hevs⟩

theorem State.onTarget_noAccess_of_port_eq {f : Responder → Responder}
    (hport : (f s.target).eng.port = s.target.eng.port) : NoAccess s (s.onTarget f) :=
  State.onTarget_noAccess (evs := []) (by simp [hport]) (by simp)

/-- Outside the copies a transition of the CD with its LE idle makes no port transaction. -/
theorem State.targetLocal_noAccess (hw : s.target.cd ≠ .wCopy) (hr : s.target.cd ≠ .rCopy) :
    NoAccess s s.targetLocal := by
  unfold State.targetLocal
  split
  iterate 3 next => exact State.onTarget_noAccess_of_port_eq rfl
  iterate 5 next => exact State.onTarget_noAccess_of_port_eq (by simp)
  next => exact State.onTarget_noAccess_of_port_eq s.target.decodeCmd_port
  next => exact State.onTarget_noAccess_of_port_eq s.target.decodeWriteFields_port
  next => exact State.onTarget_noAccess_of_port_eq s.target.decodeReadFields_port
  next hcd => exact absurd hcd hw
  next hcd => exact absurd hcd hr

/-- A transition of the Responder with its LE busy is an `Xfer`. -/
theorem State.targetTick_busy_noAccess (hb : s.target.eng.state ≠ .idle) :
    NoAccess s s.targetTick := by
  rw [State.targetTick, if_neg hb]
  exact State.onTarget_noAccess
    (f := fun r => ((r.onEng Engine.consume).onEng
      (Engine.onYield s.cfg.target s.target.eng.answer)).reactIfIdle)
    (by rw [Responder.reactIfIdle_port]; exact Engine.onYield_trace _ _ _)
    (by simp [PortEvent.isAccess])

theorem State.targetTick_of_idle (hi : s.target.eng.state = .idle) :
    s.targetTick = s.targetLocal := by
  rw [State.targetTick, if_pos hi]

/-! ### One transition of a copy -/

/-- A transition of `W_COPY` with a byte left: the store, `J+`, and `W_CONF` after the last byte. -/
theorem State.targetTick_wCopy (hi : s.target.eng.state = .idle) (hcd : s.target.cd = .wCopy)
    (hj : s.target.j < s.target.cnt) : s.targetTick =
      (s.copyOutByte (bufAt s.target.eng.rxBuf (5 + s.target.j))).gotoCd
        (if s.target.j + 1 = s.target.cnt then .wConf else .wCopy) := by
  have hlocal : s.targetLocal = s.wCopyStep := by simp only [State.targetLocal, hcd]
  rw [State.targetTick_of_idle hi, hlocal, State.wCopyStep_eq, if_pos hj]
  split
  · rfl
  · rw [← hcd]
    rfl

/-- A transition of `R_COPY` with a byte left: the read, `J+`, and after the last byte `TX_LEN` and
`R_CONF`. -/
theorem State.targetTick_rCopy (hi : s.target.eng.state = .idle) (hcd : s.target.cd = .rCopy)
    (hj : s.target.j < s.target.cnt) : s.targetTick =
      if s.target.j + 1 = s.target.cnt then
        (s.copyInByte.onTarget Responder.closeReply).gotoCd .rConf
      else s.copyInByte := by
  have hlocal : s.targetLocal = s.rCopyStep := by simp only [State.targetLocal, hcd]
  rw [State.targetTick_of_idle hi, hlocal, State.rCopyStep_eq, if_pos hj]

end

/-- Settles O49: by the LE and the CD's state; a copy transition is the turn of its loop. -/
theorem memoryOnlyInCopyStates : Obligations.MemoryOnlyInCopyStates := by
  intro s
  refine ⟨?_, fun hi hcd hj => ?_, fun hi hcd hj v hv => ?_⟩
  · intro hout
    change NoAccess s s.targetTick
    by_cases hi : s.target.eng.state = .idle
    · obtain ⟨hw, hr⟩ := hout.resolve_left (not_not_intro hi)
      exact State.targetTick_of_idle hi ▸ State.targetLocal_noAccess hw hr
    · exact State.targetTick_busy_noAccess hi
  · rw [State.targetTick_wCopy hi hcd hj]
    rfl
  · subst hv
    rw [State.targetTick_rCopy hi hcd hj]
    by_cases hlast : s.target.j + 1 = s.target.cnt
    · simp only [if_pos hlast]
      rfl
    · simp only [if_neg hlast, ← hcd]
      rfl

/-! ### The accesses of a whole copy -/

theorem Params.addrBits_eq {p : Params} (hp : p.inRange = true) : p.addrBits = Config.addrBits :=
  ((Params.inRange_iff p).1 hp).2.2.2

theorem LinkParams.target_inRange {c : LinkParams} (h : c.inRange = true) :
    c.target.inRange = true :=
  (Bool.and_eq_true _ _ ▸ h : _ ∧ _).1

theorem addrOf_toNat (addr : Word) (j : Nat) :
    (addrOf Config.addrBits addr j).toNat = (addr.toNat + j) % 2 ^ 32 := by
  simp [addrOf, Config.addrBits]

section
variable {s : State}

/-- A write copy from its first byte on: one store a data byte, in ascending address order. -/
theorem State.copyOut_trace (hp : s.cfg.inRange = true) (hj : s.target.j = 0) (data : List Byte) :
    (s.copyOut data).target.eng.port.trace =
      s.target.eng.port.trace ++ writeEvents s.target.addr data := by
  have haddr := Params.addrBits_eq (LinkParams.target_inRange hp)
  simp [State.copyOut_spec, writeEvents, hj, haddr]

/-- A read copy from its first byte on: one read a data byte, in ascending address order. -/
theorem State.copyIn_trace (hp : s.cfg.inRange = true) (hj : s.target.j = 0) (n : Nat) :
    (s.copyIn n).target.eng.port.trace = s.target.eng.port.trace ++ readEvents s.target.addr
      (readBytes Config.addrBits s.mem s.otherStores s.target.addr 0 n) := by
  have haddr := Params.addrBits_eq (LinkParams.target_inRange hp)
  simp [State.copyIn_spec, readEvents, hj, haddr]

end

/-- Settles O8: the copies' specifications at `J = 0` and `ADDR_BITS = 32`. -/
theorem copyAddressesWrap : Obligations.CopyAddressesWrap :=
  ⟨addrOf_toNat, fun _ data hp hj => State.copyOut_trace hp hj data,
    fun _ n hp hj => ⟨_, readBytes_length n _ _ _ _, State.copyIn_trace hp hj n⟩, by decide⟩

end Sys2Proof.Machine
end

section
/-! SUPPORT. The packet formats (30_encoding.md rules R72, R75-R85): decoding and encoding are inverse to
each other, operand by operand, then opcode by opcode, then for whole packets; then the statements on
encoding. -/

namespace Sys2Proof.Machine

/-! ### Operands -/

theorem decodeWrite_encodeWrite {ops : WriteOperands} (h : ops.wellFormed = true) :
    decodeWrite (encodeWrite ops) = ops := by
  match ops, h with
  | .full addr data, _ =>
    exact congrArg (WriteOperands.full · data) (beWord_of_bytes addr)
  | .short [], _ | .short [_], _ | .short [_, _], _ | .short [_, _, _], _ => rfl

theorem decodeRead_encodeRead {ops : ReadOperands} (h : ops.wellFormed = true) :
    decodeRead (encodeRead ops) = ops := by
  match ops, h with
  | .full addr countLess1 trailing, _ =>
    exact congrArg (ReadOperands.full · countLess1 trailing) (beWord_of_bytes addr)
  | .short [], _ | .short [_], _ | .short [_, _], _ | .short [_, _, _], _
  | .short [_, _, _, _], _ => rfl

theorem decodeOk_leBytes (c : Word) : decodeOk (leBytes c) = .ok (.rspOkWithChecksum c) :=
  congrArg (Except.ok ∘ Instr.rspOkWithChecksum) (beWord_of_bytes c)

theorem encodeWrite_decodeWrite (bytes : List Byte) : encodeWrite (decodeWrite bytes) = bytes := by
  match bytes with
  | [] | [_] | [_, _] | [_, _, _] => rfl
  | a3 :: a2 :: a1 :: a0 :: data =>
    exact congrArg (· ++ data) (beBytes_beWord a3 a2 a1 a0)

theorem encodeRead_decodeRead (bytes : List Byte) : encodeRead (decodeRead bytes) = bytes := by
  match bytes with
  | [] | [_] | [_, _] | [_, _, _] | [_, _, _, _] => rfl
  | a3 :: a2 :: a1 :: a0 :: n :: trailing =>
    exact congrArg (· ++ n :: trailing) (beBytes_beWord a3 a2 a1 a0)

theorem encode_of_decodeOk {rest : List Byte} {i : Instr} (h : decodeOk rest = .ok i) :
    encode i = 0x01#8 :: rest := by
  unfold decodeOk at h
  split at h
  next c0 c1 c2 c3 =>
    cases h
    exact congrArg (0x01#8 :: ·) (leBytes_leWord c0 c1 c2 c3)
  next => cases h

/-! ### The opcode maps -/

/-- A packet of 1 to 256 bytes is read by the command opcode map. -/
theorem decode_h2t {opcode : Byte} {rest : List Byte} (h : rest.length ≤ 255) :
    decode .h2t (opcode :: rest) = decodeCommand opcode rest :=
  if_neg (Nat.not_lt.2 h)

/-- A packet of 1 to 256 bytes is read by the response opcode map. -/
theorem decode_t2h {opcode : Byte} {rest : List Byte} (h : rest.length ≤ 255) :
    decode .t2h (opcode :: rest) = decodeResponse opcode rest :=
  if_neg (Nat.not_lt.2 h)

/-- An opcode at or above the first reserved one is none of the assigned ones. -/
theorem opcode_ne {opcode assigned : Byte} {reserved : Nat} (h : reserved ≤ opcode.toNat)
    (ha : assigned.toNat < reserved) : opcode ≠ assigned := by
  rintro rfl
  omega

theorem decodeCommand_reserved {opcode : Byte} (h : 4 ≤ opcode.toNat) (rest : List Byte) :
    decodeCommand opcode rest = .error (.reservedCommand opcode) := by
  rw [decodeCommand, if_neg (opcode_ne h (by decide)), if_neg (opcode_ne h (by decide)),
    if_neg (opcode_ne h (by decide)), if_neg (opcode_ne h (by decide))]

theorem decodeResponse_reserved {opcode : Byte} (h : 3 ≤ opcode.toNat) (rest : List Byte) :
    decodeResponse opcode rest = .error (.reservedResponse opcode) := by
  rw [decodeResponse, if_neg (opcode_ne h (by decide)), if_neg (opcode_ne h (by decide)),
    if_neg (opcode_ne h (by decide))]

theorem encode_of_decodeCommand {opcode : Byte} {rest : List Byte} {i : Instr}
    (h : decodeCommand opcode rest = .ok i) : encode i = opcode :: rest := by
  unfold decodeCommand at h
  repeat' split at h
  all_goals cases h
  all_goals subst opcode
  · rfl
  · exact congrArg (0x01#8 :: ·) (encodeWrite_decodeWrite rest)
  · exact congrArg (0x02#8 :: ·) (encodeRead_decodeRead rest)
  · rfl

theorem encode_of_decodeResponse {opcode : Byte} {rest : List Byte} {i : Instr}
    (h : decodeResponse opcode rest = .ok i) : encode i = opcode :: rest := by
  unfold decodeResponse at h
  split at h
  next hop =>
    split at h
    · cases h
      subst opcode rest
      rfl
    · cases h
  next =>
    split at h
    next hop =>
      subst opcode
      exact encode_of_decodeOk h
    next =>
      split at h
      next hop =>
        split at h
        · cases h
        · cases h
          subst opcode
          rfl
      next => cases h

/-! ### Whole packets -/

/-- The operands of a well-formed instruction fit the packet after its opcode (30_encoding.md rule
R72). -/
theorem Instr.operandBytes_length_le {i : Instr} (h : i.wellFormed = true) :
    i.operandBytes.length ≤ 255 := by
  have hfits : Laws.PacketFits.Statement i := by
    cases i with
    | checkStatus trailing => exact Laws.PacketFits.checkStatus trailing
    | writeMemoryRegion ops => exact Laws.PacketFits.writeMemoryRegion ops
    | readMemoryRegion ops => exact Laws.PacketFits.readMemoryRegion ops
    | readMemoryRegionData trailing => exact Laws.PacketFits.readMemoryRegionData trailing
    | rspUnexpectedCommand => exact Laws.PacketFits.rspUnexpectedCommand
    | rspOkWithChecksum checksum => exact Laws.PacketFits.rspOkWithChecksum checksum
    | rspReadMemoryRegionData data => exact Laws.PacketFits.rspReadMemoryRegionData data
  obtain ⟨-, hlen, -⟩ := hfits h
  exact Nat.le_of_succ_le_succ hlen

theorem encode_of_decode {d : Direction} {bs : List Byte} {i : Instr} (h : decode d bs = .ok i) :
    encode i = bs := by
  cases bs with
  | nil => cases h
  | cons opcode rest =>
    simp only [decode] at h
    split at h
    · cases h
    · cases d with
      | h2t => exact encode_of_decodeCommand h
      | t2h => exact encode_of_decodeResponse h

/-- Settles O18: the packet fits the frame, and each opcode's operands decode to themselves. -/
theorem decodeOfEncode : Obligations.DecodeOfEncode := by
  intro i hwf
  have hlen := Instr.operandBytes_length_le hwf
  cases i with
  | checkStatus trailing => exact decode_h2t hlen
  | writeMemoryRegion ops =>
    exact (decode_h2t hlen).trans
      (congrArg (Except.ok ∘ Instr.writeMemoryRegion) (decodeWrite_encodeWrite hwf))
  | readMemoryRegion ops =>
    exact (decode_h2t hlen).trans
      (congrArg (Except.ok ∘ Instr.readMemoryRegion) (decodeRead_encodeRead hwf))
  | readMemoryRegionData trailing => exact decode_h2t hlen
  | rspUnexpectedCommand => rfl
  | rspOkWithChecksum checksum => exact (decode_t2h hlen).trans (decodeOk_leBytes checksum)
  | rspReadMemoryRegionData data =>
    have hne : data ≠ [] := by
      rintro rfl
      cases hwf
    exact (decode_t2h hlen).trans (if_neg hne)

/-- Settles O19: the packet is read back, opcode by opcode; well-formedness and direction are what the
decoder's own laws say. -/
theorem encodeOfDecode : Obligations.EncodeOfDecode :=
  fun _ _ _ h => ⟨encode_of_decode h, decode_wellFormed h, decode_direction h⟩

/-- Settles O20: no assigned opcode's number is that large. -/
theorem reservedOpcodesRejected : Obligations.ReservedOpcodesRejected :=
  fun _ rest hlen =>
    ⟨fun h => (decode_h2t hlen).trans (decodeCommand_reserved h rest),
      fun h => (decode_t2h hlen).trans (decodeResponse_reserved h rest)⟩

/-- Settles O21: the decoder evaluated on the seven packets. -/
theorem decodedPackets : Obligations.DecodedPackets := by
  unfold Obligations.DecodedPackets
  decide

/-! ### The length byte -/

theorem lengthByte_lengthOf (v : Byte) : lengthByte (lengthOf v) = v := by
  rw [lengthByte, lengthOf, Nat.add_sub_cancel, BitVec.ofNat_toNat, BitVec.setWidth_eq]

theorem lengthByte_toNat {len : Nat} (h : len ≤ 256) : (lengthByte len).toNat = len - 1 :=
  Nat.mod_eq_of_lt (by omega)

/-- An idle engine that is asked to send a packet of a length outside 1..256 changes `LE_RESULT` alone
(40_link_layer.md rule R103 step 1). -/
theorem sendPacket_of_length_outside {p : Params} {e : Engine} (hp : p.inRange = true)
    (hidle : e.state = .idle) (hlen : e.txLen < 1 ∨ 256 < e.txLen) :
    sendPacket p e = { e with result := .err .invalidLength } := by
  obtain ⟨-, -, hmax, -⟩ := (Params.inRange_iff p).1 hp
  have hbad : e.badLength p = true := (e.badLength_iff p).2 (hmax ▸ hlen)
  rw [sendPacket_badLength hbad, Engine.abort_of_not_receiving e _ (by rw [hidle]; rfl), ← hidle]

/-- Settles O1: the two round trips of the length byte, its ends, and the send that is rejected. -/
theorem lengthByteRoundTrip : Obligations.LengthByteRoundTrip :=
  ⟨fun _ => lengthOf_lengthByte,
    fun v => ⟨lengthByte_lengthOf v, lengthOf_range v⟩,
    fun _ _ => lengthByte_toNat,
    by decide,
    fun _ _ => sendPacket_of_length_outside⟩

end Sys2Proof.Machine
end

section
/-! SUPPORT. SendPacket against a channel that lets it out (40_link_layer.md rule R103), and
READ_MEMORY_REGION's phase 1 with it (41_dispatch.md rule R146); then the statement on the latter. -/

namespace Sys2Proof.Machine

/-! ### A send that succeeds -/

/-- What comes back after a SendPacket's search splits into the answers to the confirmations, to the
length and to the payload. -/
theorem exists_append_cons_of_length {α : Type} {back : List α} {c len : Nat}
    (h : back.length = c + 1 + len) :
    ∃ confirms atLen pay, back = confirms ++ atLen :: pay ∧ confirms.length = c ∧ pay.length = len := by
  refine ⟨back.take c, back[c], back.drop (c + 1), ?_, ?_, ?_⟩
  · rw [← List.drop_eq_getElem_cons, List.take_append_drop]
  · rw [List.length_take]
    omega
  · rw [List.length_drop]
    omega

/-- The transfers of a sent frame: those of the search, of the confirmations, of the length and of the
payload. -/
theorem xfers_sentFrame (p : Params) {misses confirms packet pay : List Byte} (atLen : Byte)
    (hconfirms : confirms.length = p.sendConfirmCount) :
    xfers (sentFrame p (misses.length + 1) packet)
        (misses ++ p.hsSend :: (confirms ++ atLen :: pay)) =
      xfers (List.replicate (misses.length + 1) p.hsSend) (misses ++ [p.hsSend]) ++
        (xfers (List.replicate confirms.length p.hsSend) confirms ++
          .xfer (lengthByte packet.length) (.byte atLen) :: xfers packet pay) := by
  rw [sentFrame, ← hconfirms, List.append_assoc, List.append_cons misses, xfers_append (by simp),
    xfers_append (by simp), xfers_cons]

/-- The engine at the successful end of a SendPacket to which `vs` came back, `rest` being left of the
script. -/
def sendDone (p : Params) (e : Engine) (vs : List Byte) (rest : List Yield) : Engine :=
  { e with
    state := .idle
    result := .ok
    acc := csum p.seed e.txPacket
    hsCnt := vs.length - (p.sendConfirmCount + 1 + e.txLen)
    echoCnt := p.sendConfirmCount
    idx := e.txLen
    port :=
      { inbox := rest
        trace := e.port.trace ++ xfers
          (sentFrame p (vs.length - (p.sendConfirmCount + 1 + e.txLen)) e.txPacket) vs } }

/-- Against a channel that lets the search match, SendPacket sends its whole frame. -/
theorem sendPacket_eq_sendDone {p : Params} {e : Engine} {vs : List Byte} {rest : List Yield}
    (hfit : e.txLen ≤ 257) (ha : AnswersSend p e.txLen vs)
    (hin : e.port.inbox = byteYields vs ++ rest) : sendPacket p e = sendDone p e vs rest := by
  obtain ⟨hpos, hmax, misses, back, rfl, hmiss, hatt, hback⟩ := ha
  obtain ⟨confirms, atLen, pay, rfl, hconfirms, hpay⟩ := exists_append_cons_of_length hback
  have hpacket : e.txPacket.length = e.txLen := bufTake_length hfit
  have hgood : e.badLength p = false := (e.badLength_false_iff p).2 ⟨hpos, hmax⟩
  have hsearch : (misses ++ p.hsSend :: (confirms ++ atLen :: pay)).length -
      (p.sendConfirmCount + 1 + e.txLen) = misses.length + 1 := by
    simp only [List.length_append, List.length_cons]
    omega
  rw [sendPacket, if_neg (by simp [hgood]),
    search_matches (misses := misses) (rest := byteYields (confirms ++ atLen :: pay) ++ rest)
      (by simp [hin]) hmiss hatt]
  simp only [Attempt.andThen, ← hconfirms]
  rw [echo_all (vs := confirms) (rest := byteYields (atLen :: pay) ++ rest) (by simp)]
  simp only
  rw [Engine.xfer_byte (v := atLen) (rest := byteYields pay ++ rest) (by simp)]
  change Attempt.conclude (sendPayload e.txPacket _) = _
  rw [sendPayload_all (vs := pay) (rest := rest) (hpacket.trans hpay.symm)
    (by simp [Engine.moved]), sendDone, hsearch, xfers_sentFrame p atLen hconfirms]
  simp [Attempt.conclude, Engine.finish, Engine.moved, hconfirms, hpacket]

theorem Responder.makeAck_txPacket (r : Responder) :
    r.makeAck.eng.txPacket = 0x01#8 :: leBytes r.eng.acc :=
  Engine.stage_txPacket (Nat.le_of_ble_eq_true rfl)

/-- What an ack that gets out adds to the log: its frame. -/
theorem Responder.makeAck_sendDone_trace (p : Params) (r : Responder) (vs : List Byte)
    (rest : List Yield) :
    (sendDone p r.makeAck.eng vs rest).port.trace = r.eng.port.trace ++ xfers
      (sentFrame p (vs.length - (p.sendConfirmCount + 6)) (0x01#8 :: leBytes r.eng.acc)) vs := by
  rw [← r.makeAck_txPacket]
  rfl

/-- An ack that gets out: the Responder's LE has sent the OkWithChecksum packet of `ACC`
(41_dispatch.md rule R143). -/
theorem State.sendAck_of_answers {s : State} {vs : List Byte} {rest : List Yield} (cd : CdState)
    (ha : AnswersSend s.cfg.target 5 vs)
    (hin : s.target.eng.port.inbox = byteYields vs ++ rest) :
    s.sendAck cd = { s with target := { s.target with
      cd := cd
      eng := sendDone s.cfg.target s.target.makeAck.eng vs rest } } := by
  have hsend : sendPacket s.cfg.target s.target.makeAck.eng =
      sendDone s.cfg.target s.target.makeAck.eng vs rest :=
    sendPacket_eq_sendDone (Nat.le_of_ble_eq_true rfl) ha hin
  rw [State.sendAck_eq]
  exact congrArg (fun eng => { s with target := { s.target with cd := cd, eng := eng } }) hsend

/-! ### READ_MEMORY_REGION's phase 1 -/

/-- A well-formed command that `DISPATCH` finds with the LE idle runs. -/
theorem State.onCommand_dispatch {s : State} {i : Instr} (run : State → State)
    (hwf : i.wellFormed = true) (hidle : s.target.eng.state = .idle)
    (hcd : s.target.cd = .dispatch) : s.onCommand i run = .next (run s) := by
  simp [State.onCommand, hwf, hidle, hcd]

/-- The bytes a copy of `n` bytes from `addr` on finds in target memory. -/
def State.readData (s : State) (addr : Word) (n : Nat) : List Byte :=
  readBytes Config.addrBits s.mem s.otherStores addr 0 n

theorem State.readData_length (s : State) (addr : Word) (n : Nat) :
    (s.readData addr n).length = n :=
  readBytes_length n _ _ _ _

/-- The engine after the bytes `bytes` have been read from `addr` on and staged as the data reply
(30_encoding.md rule R82). -/
def Engine.readReply (addr : Word) (bytes : List Byte) (e : Engine) : Engine :=
  { e.stage (0x02#8 :: bytes) with
    port := { e.port with trace := e.port.trace ++ readEvents addr bytes } }

theorem Engine.readReply_txPacket (e : Engine) (addr : Word) {bytes : List Byte}
    (h : bytes.length ≤ 256) : (e.readReply addr bytes).txPacket = 0x02#8 :: bytes :=
  Engine.stage_txPacket (Nat.succ_le_succ h)

/-- The state in `R_CONF` after `n` bytes have been read from `addr` on. -/
def State.readCopied (addr : Word) (n : Nat) (s : State) : State :=
  { s with
    mem := storesOf s.mem s.otherStores n
    otherStores := s.otherStores.drop n
    target :=
      { s.target with
        cd := .rConf
        addr := addr
        cnt := n
        j := n
        eng := s.target.eng.readReply addr (s.readData addr n) } }

/-- From `R_DECODE` on a READ_MEMORY_REGION with all its fields is one read copy. -/
theorem State.readPhase1_full (s : State) (hp : s.cfg.inRange = true) (addr : Word) (n1 : Byte)
    (trailing : List Byte) :
    s.readPhase1 (.full addr n1 trailing) = s.readCopied addr (countOf n1) := by
  have haddr := Params.addrBits_eq (LinkParams.target_inRange hp)
  simp [State.readPhase1, State.copyIn_spec, State.onTarget, Responder.openReply,
    Responder.closeReply, Responder.onEng, State.gotoCd, Responder.goto, Engine.stage, bufPutAll,
    readEvents, State.readCopied, Engine.readReply, State.readData, readBytes_length, haddr]

/-- READ_MEMORY_REGION's phase 1 when its ack gets out: the ack, then the read copy. -/
theorem State.runRead_full_of_answers {s : State} {vs : List Byte} {rest : List Yield}
    (hp : s.cfg.inRange = true) (ha : AnswersSend s.cfg.target 5 vs)
    (hin : s.target.eng.port.inbox = byteYields vs ++ rest) (addr : Word) (n1 : Byte)
    (trailing : List Byte) :
    s.runRead (.full addr n1 trailing) =
      (s.onTarget (·.onEng fun _ => sendDone s.cfg.target s.target.makeAck.eng vs rest)).readCopied
        addr (countOf n1) := by
  have hack := State.sendAck_of_answers .rAck ha hin
  have hok : (s.sendAck .rAck).target.eng.result = .ok := by
    rw [hack]
    rfl
  have hcopy := ((s.sendAck .rAck).gotoCd .rDecode).readPhase1_full hp addr n1 trailing
  rw [State.runRead, if_pos hok, hcopy, hack]
  rfl

/-- Settles O27: the ack goes out, then the read copy stages the data reply. -/
theorem readMemoryRegionCompletes : Obligations.ReadMemoryRegionCompletes := by
  intro s addr n1 trailing vs rest htrailing hp hidle hcd hanswers hin
  have hwf : (Instr.readMemoryRegion (.full addr n1 trailing)).wellFormed = true :=
    decide_eq_true htrailing
  have hexec : exec (.readMemoryRegion (.full addr n1 trailing)) s = _ :=
    State.onCommand_dispatch _ hwf hidle hcd
  rw [State.runRead_full_of_answers hp hanswers hin] at hexec
  have hlen := s.readData_length addr (countOf n1)
  refine ⟨_, s.readData addr (countOf n1), hexec, hlen, rfl, rfl, rfl, rfl, rfl, rfl,
    congrArg Nat.succ hlen, Engine.readReply_txPacket _ addr (hlen.le.trans n1.isLt), ?_, ?_⟩
  · exact congrArg (· ++ readEvents addr (s.readData addr (countOf n1)))
      (Responder.makeAck_sendDone_trace s.cfg.target s.target vs rest)
  · intro hundisturbed j hj
    exact (readBytes_undisturbed _ _ _ _ _ hundisturbed j hj).trans (by rw [Nat.zero_add])

end Sys2Proof.Machine
end

section
/-! SUPPORT. The rolling checksum (40_link_layer.md rules R100-R102): rotations of a word, Csum as a fold
that is linear over exclusive-or, what one changed byte does to it; then the five statements. -/

namespace Sys2Proof.Machine

/-! ### Rotations of a word -/

/-- `rotl32` by a number of places taken modulo 32 is the library's rotation. -/
theorem rotl32_mod (x : Word) (k : Nat) : rotl32 x (k % 32) = x.rotateLeft k := rfl

theorem csumStep_eq (acc : Word) (b : Byte) :
    csumStep acc b = acc.rotateLeft 3 ^^^ b.setWidth 32 := rfl

/-- Bit `i` of a rotated word is the bit `k` places below it, around the word. -/
theorem word_getLsbD_rotateLeft (x : Word) (k : Nat) {i : Nat} (hi : i < 32) :
    (x.rotateLeft k).getLsbD i = x.getLsbD ((i + (32 - k % 32)) % 32) := by
  by_cases h : i < k % 32
  · rw [show (i + (32 - k % 32)) % 32 = 32 - k % 32 + i by omega]
    simp [BitVec.getLsbD_rotateLeft, h]
  · rw [show (i + (32 - k % 32)) % 32 = i - k % 32 by omega]
    rw [BitVec.getLsbD_rotateLeft, decide_eq_false h, decide_eq_true hi, cond_false, Bool.true_and]

theorem word_rotateLeft_xor (x y : Word) (k : Nat) :
    (x ^^^ y).rotateLeft k = x.rotateLeft k ^^^ y.rotateLeft k :=
  BitVec.eq_of_getLsbD_eq fun i hi => by simp [word_getLsbD_rotateLeft _ _ hi]

theorem word_rotateLeft_rotateLeft (x : Word) (k l : Nat) :
    (x.rotateLeft k).rotateLeft l = x.rotateLeft (k + l) :=
  BitVec.eq_of_getLsbD_eq fun i hi => by
    rw [word_getLsbD_rotateLeft _ _ hi, word_getLsbD_rotateLeft _ _ hi,
      word_getLsbD_rotateLeft _ _ (Nat.mod_lt _ (by decide))]
    congr 1
    omega

@[simp] theorem word_zero_rotateLeft (k : Nat) : (0#32).rotateLeft k = 0#32 :=
  BitVec.eq_of_getLsbD_eq fun i hi => by simp [word_getLsbD_rotateLeft _ _ hi]

theorem word_rotateLeft_of_dvd (x : Word) {k : Nat} (h : 32 ∣ k) : x.rotateLeft k = x :=
  BitVec.eq_of_getLsbD_eq fun i hi => by
    rw [word_getLsbD_rotateLeft _ _ hi, show (i + (32 - k % 32)) % 32 = i by omega]

theorem word_rotateLeft_inj {x y : Word} {k : Nat} :
    x.rotateLeft k = y.rotateLeft k ↔ x = y := by
  refine ⟨fun h => ?_, congrArg (BitVec.rotateLeft · k)⟩
  have hback := congrArg (BitVec.rotateLeft · (31 * k)) h
  simp only [word_rotateLeft_rotateLeft] at hback
  rwa [word_rotateLeft_of_dvd x (by omega), word_rotateLeft_of_dvd y (by omega)] at hback

/-- A word that a rotation fixes is fixed by its repetitions. -/
theorem word_rotateLeft_mul_of_fixed {x : Word} {k : Nat} (h : x.rotateLeft k = x) :
    ∀ m, x.rotateLeft (m * k) = x
  | 0 => word_rotateLeft_of_dvd x (by omega)
  | m + 1 => by
    rw [Nat.succ_mul, ← word_rotateLeft_rotateLeft, word_rotateLeft_mul_of_fixed h m, h]

/-- A rotation by no multiple of 32, repeated often enough, is one by 16. -/
theorem exists_mul_mod_eq_16 {k : Nat} (h : ¬ 32 ∣ k) : ∃ m, m * k % 32 = 16 := by
  have small : ∀ r : Fin 32, r ≠ 0 → ∃ m : Fin 32, m.val * r.val % 32 = 16 := by decide
  obtain ⟨m, hm⟩ := small ⟨k % 32, Nat.mod_lt _ (by decide)⟩ (by simpa [Fin.ext_iff] using by omega)
  exact ⟨m, by rwa [Nat.mul_mod, Nat.mod_mod, ← Nat.mul_mod] at hm⟩

/-- No bit of a byte is 16 places from another, so only a rotation by a multiple of 32 fixes it. -/
theorem byte_rotateLeft_eq_self_iff {b : Byte} (hb : b ≠ 0#8) (k : Nat) :
    (b.setWidth 32).rotateLeft k = b.setWidth 32 ↔ 32 ∣ k := by
  refine ⟨fun h => ?_, word_rotateLeft_of_dvd _⟩
  by_contra hk
  obtain ⟨m, hm⟩ := exists_mul_mod_eq_16 hk
  have hfixed := word_rotateLeft_mul_of_fixed h m
  refine hb (BitVec.eq_of_getLsbD_eq fun i hi => ?_)
  have hbit := congrArg (BitVec.getLsbD · i) hfixed
  simp only [word_getLsbD_rotateLeft _ _ (show i < 32 by omega), hm] at hbit
  rw [show (i + (32 - 16)) % 32 = i + 16 by omega] at hbit
  simpa [show i < 32 by omega, show i + 16 < 32 by omega] using hbit.symm

/-! ### Csum -/

@[simp] theorem csum_nil (s : Word) : csum s [] = s := rfl

@[simp] theorem csum_cons (s : Word) (b : Byte) (bs : List Byte) :
    csum s (b :: bs) = csum (csumStep s b) bs := rfl

theorem csum_append : ∀ (bs cs : List Byte) (s : Word), csum s (bs ++ cs) = csum (csum s bs) cs
  | [], _, _ => rfl
  | b :: bs, cs, s => csum_append bs cs (csumStep s b)

/-- A step is linear over exclusive-or. -/
theorem csumStep_xor (s t : Word) (b c : Byte) :
    csumStep (s ^^^ t) (b ^^^ c) = csumStep s b ^^^ csumStep t c := by
  simp only [csumStep_eq, word_rotateLeft_xor, BitVec.setWidth_xor]
  ac_rfl

/-- What is added to the start value comes out rotated. -/
theorem csum_xor : ∀ (bs : List Byte) (s t : Word),
    csum (s ^^^ t) bs = csum s bs ^^^ t.rotateLeft (3 * bs.length)
  | [], s, t => by rw [List.length_nil, word_rotateLeft_of_dvd t (by decide)]; rfl
  | b :: bs, s, t => by
    have hstep : csumStep (s ^^^ t) b = csumStep s b ^^^ t.rotateLeft 3 := by
      simpa [csumStep_eq t] using csumStep_xor s t b 0#8
    rw [csum_cons, csum_cons, hstep, csum_xor bs, word_rotateLeft_rotateLeft, List.length_cons,
      Nat.mul_succ, Nat.add_comm]

/-- The start value only adds its own rotation (40_link_layer.md rule R101). -/
theorem csum_start (s : Word) (bs : List Byte) :
    csum s bs = s.rotateLeft (3 * bs.length) ^^^ csum 0#32 bs := by
  rw [BitVec.xor_comm, ← csum_xor, BitVec.zero_xor]

/-- The checksum from 0 is the exclusive-or of the bytes, each rotated by its place from the end. -/
theorem csum_zero_eq_foldl : ∀ bs : List Byte, csum 0#32 bs =
    (bs.mapIdx fun i b => (b.setWidth 32).rotateLeft (3 * (bs.length - 1 - i))).foldl (· ^^^ ·) 0#32
  | [] => rfl
  | b :: bs => by
    have hstep : csumStep 0#32 b = b.setWidth 32 := by simp [csumStep_eq]
    rw [csum_cons, csum_start, hstep, csum_zero_eq_foldl bs, List.mapIdx_cons, List.foldl_cons,
      BitVec.xor_comm 0#32, List.foldl_assoc]
    simp only [List.length_cons, Nat.add_sub_cancel, Nat.sub_zero, Nat.sub_sub, Nat.add_comm 1]

/-- A changed byte changes the checksum by the difference, rotated by its place from the end. -/
theorem csum_set : ∀ (bs : List Byte) (s : Word) (i : Nat) (v : Byte) (hi : i < bs.length),
    csum s (bs.set i v) =
      csum s bs ^^^ ((bs[i] ^^^ v).setWidth 32).rotateLeft (3 * (bs.length - 1 - i))
  | b :: bs, s, 0, v, _ => by
    have hstep : csumStep s v = csumStep s b ^^^ (b ^^^ v).setWidth 32 := by
      rw [csumStep_eq, csumStep_eq, BitVec.setWidth_xor, BitVec.xor_assoc,
        ← BitVec.xor_assoc (b.setWidth 32), BitVec.xor_self, BitVec.zero_xor]
    rw [List.set_cons_zero, csum_cons, csum_cons, hstep, csum_xor]
    rfl
  | b :: bs, s, i + 1, v, hi => by
    have hplace : (b :: bs).length - 1 - (i + 1) = bs.length - 1 - i := by
      rw [List.length_cons]
      omega
    rw [List.set_cons_succ, csum_cons, csum_cons, csum_set bs _ i v (Nat.lt_of_succ_lt_succ hi),
      hplace]
    rfl

/-- A byte added to every byte adds the checksum of that byte repeated. -/
theorem csum_map_xor (c : Byte) : ∀ (bs : List Byte) (s t : Word),
    csum (s ^^^ t) (bs.map (· ^^^ c)) = csum s bs ^^^ csum t (List.replicate bs.length c)
  | [], _, _ => rfl
  | b :: bs, s, t => by
    rw [List.map_cons, List.length_cons, List.replicate_succ, csum_cons, csum_cons, csum_cons,
      csumStep_xor, csum_map_xor c bs]

/-- Over a multiple of 32 bytes the start value comes round to its place. -/
theorem csum_start_of_dvd {bs : List Byte} (h : 32 ∣ bs.length) (s : Word) :
    csum s bs = s ^^^ csum 0#32 bs := by
  rw [csum_start, word_rotateLeft_of_dvd s (by omega)]

/-- Two sequences of a multiple of 32 bytes with one checksum cancel. -/
theorem csum_append_cancel {bs cs : List Byte} (hb : 32 ∣ bs.length) (hc : 32 ∣ cs.length)
    (h : csum 0#32 cs = csum 0#32 bs) (s : Word) : csum s (bs ++ cs) = s := by
  rw [csum_append, csum_start_of_dvd hc, csum_start_of_dvd hb, h, BitVec.xor_assoc,
    BitVec.xor_self, BitVec.xor_zero]

theorem csum_replicate_double {n : Nat} (h : 32 ∣ n) (s : Word) (b : Byte) :
    csum s (List.replicate (n + n) b) = s := by
  rw [← List.replicate_append_replicate]
  exact csum_append_cancel (by simpa) (by simpa) rfl s

/-- The bytes 0x80 to 0xFF are the bytes 0x00 to 0x7F with the top bit added. -/
theorem bytes_00_to_FF : (List.range 256).map (BitVec.ofNat 8) =
    (List.range 128).map (BitVec.ofNat 8) ++
      ((List.range 128).map (BitVec.ofNat 8)).map (· ^^^ 0x80#8) := by
  have htop : ∀ i : Fin 128, BitVec.ofNat 8 (128 + i) = BitVec.ofNat 8 i ^^^ 0x80#8 := by decide
  rw [show 256 = 128 + 128 from rfl, List.range_add, List.map_append, List.map_map, List.map_map]
  refine congrArg _ (List.map_congr_left fun i hi => ?_)
  exact htop ⟨i, List.mem_range.1 hi⟩

/-! ### The statements -/

/-- Settles O3: a step is a rotation by 3 and an exclusive-or, bit by bit. -/
theorem csumStepBits : Obligations.CsumStepBits := by
  refine ⟨fun acc b i hi => ?_, by decide, by decide, by decide, by decide, by decide⟩
  rw [csumStep_eq, BitVec.getLsbD_xor, word_getLsbD_rotateLeft _ _ hi, BitVec.getLsbD_setWidth]
  have hlow : b.getLsbD i = (decide (i < 8) && b.getLsbD i) := by
    by_cases h : i < 8
    · simp [h]
    · simp [h, BitVec.getLsbD_of_ge b i (by omega)]
  rw [decide_eq_true hi, Bool.true_and, ← hlow]

/-- Settles O4: the start value and the bytes contribute apart, each rotated. -/
theorem csumClosedForm : Obligations.CsumClosedForm := by
  intro s bs
  simp only [rotl32_mod]
  exact ⟨csum_nil s, fun b => csum_append bs [b] s, csum_start s bs, csum_zero_eq_foldl bs⟩

/-- Settles O5: Csum is a fold. -/
theorem csumChunks : Obligations.CsumChunks := fun s b1 b2 => (csum_append b1 b2 s).symm

/-- Settles O6: a swap changes two bytes by one difference, and the two rotations of it cancel only
where they are the same. -/
theorem csumSwapDetected : Obligations.CsumSwapDetected := by
  intro s bs i j hi hj hne
  have hdiff : bs[i] ^^^ bs[j] ≠ 0#8 := mt BitVec.xor_eq_zero_iff.1 hne
  have hplace : 3 * (bs.length - 1 - i) = 3 * (j - i) + 3 * (bs.length - 1 - j) := by omega
  have hswap : csum s ((bs.set i bs[j]).set j bs[i]) = csum s bs ^^^
      (((bs[i] ^^^ bs[j]).setWidth 32).rotateLeft (3 * (j - i)) ^^^
        (bs[i] ^^^ bs[j]).setWidth 32).rotateLeft (3 * (bs.length - 1 - j)) := by
    rw [csum_set _ _ _ _ (by simpa using hj), csum_set _ _ _ _ (hi.trans hj),
      List.getElem_set_ne (by omega)]
    simp only [List.length_set]
    rw [word_rotateLeft_xor, word_rotateLeft_rotateLeft, ← hplace, BitVec.xor_comm bs[j], BitVec.xor_assoc]
  calc
    csum s ((bs.set i bs[j]).set j bs[i]) = csum s bs ↔
        BitVec.rotateLeft _ (3 * (bs.length - 1 - j)) = 0#32 := by
      rw [hswap]
      simpa only [BitVec.xor_zero] using BitVec.xor_right_inj (y := 0#32) (csum s bs)
    _ ↔ 32 ∣ 3 * (j - i) := by
      rw [← word_zero_rotateLeft (3 * (bs.length - 1 - j)), word_rotateLeft_inj,
        BitVec.xor_eq_zero_iff, byte_rotateLeft_eq_self_iff hdiff]
    _ ↔ 32 ∣ j - i := by omega

/-- Settles O7: a sequence whose two halves have one checksum. -/
theorem csumPeriod256 : Obligations.CsumPeriod256 := by
  intro s
  refine ⟨csum_replicate_double (n := 128) (by decide) s, ?_⟩
  rw [bytes_00_to_FF]
  refine csum_append_cancel (by simp) (by simp) ?_ s
  have htop := csum_map_xor 0x80#8 ((List.range 128).map (BitVec.ofNat 8)) 0#32 0#32
  rwa [List.length_map, List.length_range, csum_replicate_double (n := 64) (by decide),
    BitVec.xor_zero, BitVec.xor_zero] at htop

end Sys2Proof.Machine
end

section
/-! SUPPORT. SendPacket and ReceivePacket as whole operations (40_link_layer.md rules R103, R104): the
next engine against a channel that answers, and how each ends against any; then the four statements. -/

namespace Sys2Proof.Machine

/-- What is written from cell 0 on is what is read back. -/
theorem bufTake_bufPutAll {n : Nat} (buf : Vector Byte n) {bs : List Byte} (h : bs.length ≤ n) :
    bufTake (bufPutAll buf 0 bs) bs.length = bs := by
  rw [bufTake, bufPutAll_toList bs buf 0 (by omega)]
  simp

theorem receiveEnd_rxPacket (p : Params) (e : Engine) (evs : List PortEvent) {packet : List Byte}
    (h : packet.length ≤ 256) (hs echoes : Nat) :
    (receiveEnd p e evs packet hs echoes).rxPacket = packet :=
  bufTake_bufPutAll e.rxBuf h

/-- `RX_LEN` after a failed ReceivePacket is a free value in its range. -/
theorem receiveFail_rxLen_range (p : Params) (e : Engine) (evs : List PortEvent) (k : ErrKind)
    (got : List Byte) (hs echoes ix : Nat) :
    1 ≤ (receiveFail p e evs k got hs echoes ix).rxLen ∧
      (receiveFail p e evs k got hs echoes ix).rxLen ≤ 256 :=
  lengthOf_range (Config.freeRxLen e.draws)

/-- The transfers of a received frame: those of the search, of the echoes, of the length and of the
payload. -/
theorem xfers_echoedFrame (p : Params) {misses echoes packet : List Byte} (atLen : Byte)
    (hechoes : echoes.length = p.recvEchoCount) :
    xfers (echoedFrame p (misses.length + 1) packet.length)
        (misses ++ p.hsRecv :: (echoes ++ atLen :: packet)) =
      xfers (List.replicate (misses.length + 1) 0x00#8) (misses ++ [p.hsRecv]) ++
        (xfers (List.replicate echoes.length p.hsRecv) echoes ++
          .xfer 0x00#8 (.byte atLen) ::
            xfers ((List.range packet.length).map (BitVec.ofNat 8)) packet) := by
  rw [echoedFrame, ← hechoes, List.append_assoc, List.append_cons misses, xfers_append (by simp),
    xfers_append (by simp), xfers_cons]

/-- The engine at the successful end of a ReceivePacket of `packet` to which `vs` came back, `rest`
being left of the script. -/
def receiveDone (p : Params) (e : Engine) (packet vs : List Byte) (rest : List Yield) : Engine :=
  { e with
    state := .idle
    result := .ok
    acc := csum p.seed packet
    rxBuf := bufPutAll e.rxBuf 0 packet
    rxLen := packet.length
    hsCnt := vs.length - (p.recvEchoCount + 1 + packet.length)
    echoCnt := p.recvEchoCount
    idx := packet.length
    port :=
      { inbox := rest
        trace := e.port.trace ++ xfers
          (echoedFrame p (vs.length - (p.recvEchoCount + 1 + packet.length)) packet.length) vs } }

/-- Against a channel that brings in a frame, ReceivePacket takes all of it. -/
theorem receivePacket_eq_receiveDone {p : Params} {e : Engine} {packet vs : List Byte}
    {rest : List Yield} (ha : AnswersReceive p packet vs)
    (hin : e.port.inbox = byteYields vs ++ rest) :
    receivePacket p e = receiveDone p e packet vs rest := by
  obtain ⟨hpos, hmax, misses, echoes, rfl, hmiss, hatt, hechoes⟩ := ha
  have hsearch : (misses ++ p.hsRecv :: (echoes ++ lengthByte packet.length :: packet)).length -
      (p.recvEchoCount + 1 + packet.length) = misses.length + 1 := by
    simp only [List.length_append, List.length_cons]
    omega
  rw [receivePacket,
    search_matches (misses := misses)
      (rest := byteYields (echoes ++ lengthByte packet.length :: packet) ++ rest)
      (by simp [hin]) hmiss hatt]
  simp only [Attempt.andThen, ← hechoes]
  rw [echo_all (vs := echoes) (rest := byteYields (lengthByte packet.length :: packet) ++ rest)
    (by simp)]
  simp only
  rw [Engine.xfer_byte (v := lengthByte packet.length) (rest := byteYields packet ++ rest) (by simp)]
  simp only [lengthOf_lengthByte hpos hmax]
  rw [receivePayload_all (vs := packet) (rest := rest) (by simp [Engine.moved]), receiveDone, hsearch,
    xfers_echoedFrame p _ hechoes]
  simp [Attempt.conclude, Engine.finish, Engine.moved, hechoes, List.range_eq_range']

/-- Settles O9: the send that gets out, as a whole engine. -/
theorem sendPacketSucceeds : Obligations.SendPacketSucceeds :=
  fun _ _ _ _ _ hle ha hin => sendPacket_eq_sendDone (Nat.le_succ_of_le hle) ha hin

/-- Settles O10: the frame is taken as a whole, and its packet stands in `RX_BUF`. -/
theorem receivePacketDelivers : Obligations.ReceivePacketDelivers := by
  intro p e packet vs rest ha hin
  obtain ⟨-, hmax, -⟩ := id ha
  rw [receivePacket_eq_receiveDone ha hin]
  exact ⟨bufTake_bufPutAll e.rxBuf hmax, rfl⟩

/-- Settles O11: an illegal length is rejected at once; a legal one is sent as `sendPacket_spec` says. -/
theorem sendPacketEnds : Obligations.SendPacketEnds := by
  intro p e
  cases hb : e.badLength p with
  | true =>
    rw [sendPacket_badLength hb]
    refine ⟨[], by simp, by simp, ⟨Nat.zero_le _, .inr (.inr (.inr ⟨rfl, rfl⟩))⟩, rfl, by simp,
      by simp, fun hr => ?_, iff_of_true rfl ((Engine.badLength_iff p e).1 hb), by simp, nofun,
      fun h => absurd rfl h⟩
    rw [Engine.abort_of_not_receiving _ _ hr]
    exact ⟨rfl, rfl⟩
  | false =>
    obtain ⟨evs, r, sent, hs, echoes, ix, heq, hends, hr, hok, -, -, rfl⟩ := sendPacket_spec p e hb
    rw [heq]
    refine ⟨evs, rfl, rfl, hends, rfl, rfl, rfl, fun _ => ⟨rfl, rfl⟩, ?_, fun h => absurd h hr,
      fun h => ?_, fun _ => rfl⟩
    · rw [← Engine.badLength_iff, hb]
      exact iff_of_false hr nofun
    · exact congrArg (csum p.seed) (List.take_of_length_le (hok h).ge)

/-- Settles O12: a ReceivePacket delivers or fails, and in both cases `receivePacket_spec` says what
was folded. -/
theorem receivePacketEnds : Obligations.ReceivePacketEnds := by
  intro p e
  obtain ⟨evs, packet, hs, echoes, heq, hends, hpos, hmax, -, hgot⟩ |
    ⟨evs, k, got, hs, echoes, ix, heq, hends, hk, -, -, hgot⟩ := receivePacket_spec p e
  · rw [heq, receiveEnd_rxPacket p e evs hmax]
    exact ⟨evs, rfl, rfl, hends, nofun, rfl, rfl, rfl, hpos, hmax,
      congrArg (csum p.seed) hgot, fun _ => rfl⟩
  · rw [heq]
    obtain ⟨hpos, hmax⟩ := receiveFail_rxLen_range p e evs k got hs echoes ix
    exact ⟨evs, rfl, rfl, hends, fun h => hk (Result.err.inj h), rfl, rfl, rfl, hpos, hmax,
      congrArg (csum p.seed) hgot, nofun⟩

end Sys2Proof.Machine
end

section
/-! SUPPORT. Where a packet's meaning refuses (40_link_layer.md rule R119); then the statement. -/

namespace Sys2Proof.Machine

/-- A command runs as one: `onCommand` with its transaction. -/
theorem exec_command {i : Instr} (hd : i.direction = .h2t) (s : State) :
    ∃ run, exec i s = s.onCommand i run := by
  cases i with
  | checkStatus _ | writeMemoryRegion _ | readMemoryRegion _ | readMemoryRegionData _ =>
    exact ⟨_, rfl⟩
  | rspUnexpectedCommand | rspOkWithChecksum _ | rspReadMemoryRegionData _ => cases hd

section
variable {i : Instr} {s : State} (run : State → State)

theorem State.onCommand_of_not_wellFormed (h : i.wellFormed = false) :
    s.onCommand i run = .fault .noSuchPacket := by
  rw [State.onCommand, if_pos h]

theorem State.onCommand_of_busy (h : i.wellFormed = true) (hb : s.target.eng.state ≠ .idle) :
    s.onCommand i run = .refused .engineBusy := by
  rw [State.onCommand, if_neg (by simp [h]), if_pos hb]

theorem State.onCommand_of_not_awaited (h : i.wellFormed = true)
    (hi : s.target.eng.state = .idle) (hd : s.target.cd ≠ .dispatch) (hw : s.target.cd ≠ .wConf)
    (hr : s.target.cd ≠ .rConf) : s.onCommand i run = .refused .commandNotAwaited := by
  rw [State.onCommand, if_neg (by simp [h]), if_neg (not_not.2 hi)]
  split
  · next hcd => exact absurd hcd hd
  · next hcd => exact absurd hcd hw
  · next hcd => exact absurd hcd hr
  · rfl

theorem State.onReply_of_not_wellFormed (h : i.wellFormed = false) :
    s.onReply i = .fault .noSuchPacket := by
  rw [State.onReply, if_pos h]

theorem State.onReply_of_busy (h : i.wellFormed = true) (hb : s.host.eng.state ≠ .idle) :
    s.onReply i = .refused .engineBusy := by
  rw [State.onReply, if_neg (by simp [h]), if_pos hb]

theorem State.onReply_of_not_awaited (h : i.wellFormed = true) (hi : s.host.eng.state = .idle)
    (hx : s.host.xo ≠ .recv) : s.onReply i = .refused .replyNotAwaited := by
  rw [State.onReply, if_neg (by simp [h]), if_neg (not_not.2 hi)]
  split
  · next hxo => exact absurd hxo hx
  · rfl

end

/-- Settles O37: a command is `onCommand`, a response `onReply`, and each refuses clause by clause. -/
theorem nothingRunsUndelivered : Obligations.NothingRunsUndelivered := by
  intro s i
  cases hd : i.direction with
  | h2t =>
    obtain ⟨run, hexec⟩ := exec_command hd s
    rw [hexec]
    exact ⟨State.onCommand_of_not_wellFormed run, fun h _ => State.onCommand_of_busy run h,
      fun h _ => State.onCommand_of_not_awaited run h, nofun, nofun⟩
  | t2h =>
    rw [exec_response s hd]
    exact ⟨State.onReply_of_not_wellFormed, nofun, nofun, fun h _ => State.onReply_of_busy h,
      fun h _ => State.onReply_of_not_awaited h⟩

end Sys2Proof.Machine
end

section
/-! SUPPORT. The step table of 40_link_layer.md rule R112 against the procedures of rules R103 and R104,
phase by phase: from a state of the table the transfers reach the end of the procedure's remaining
phases, one tick a transfer; then the two statements. -/

namespace Sys2Proof.Machine

variable {p : Params} {e f : Engine}

/-! ### An engine whose port has moved on -/

section
variable (evs : List PortEvent)

@[simp] theorem Engine.moved_state : (e.moved evs).state = e.state := rfl
@[simp] theorem Engine.moved_txLen : (e.moved evs).txLen = e.txLen := rfl
@[simp] theorem Engine.moved_rxLen : (e.moved evs).rxLen = e.rxLen := rfl
@[simp] theorem Engine.moved_hsCnt : (e.moved evs).hsCnt = e.hsCnt := rfl
@[simp] theorem Engine.moved_echoCnt : (e.moved evs).echoCnt = e.echoCnt := rfl
@[simp] theorem Engine.moved_idx : (e.moved evs).idx = e.idx := rfl

theorem Engine.consume_txByte : e.consume.txByte p = e.txByte p := rfl

end

/-! ### Rows of the table that end a phase or go on -/

theorem Engine.searchMiss_last (h : e.hsCnt + 1 = p.hsAttempts) :
    e.searchMiss p = ({ e with hsCnt := e.hsCnt + 1 } : Engine).abort .handshakeTimeout :=
  if_pos h

theorem Engine.searchMiss_more (h : e.hsCnt + 1 ≠ p.hsAttempts) :
    e.searchMiss p = { e with hsCnt := e.hsCnt + 1 } :=
  if_neg h

theorem Engine.paid_last (h : e.idx + 1 = e.txLen) : e.paid =
    ({ e with acc := csumStep e.acc (bufAt e.txBuf e.idx), idx := e.idx + 1 } : Engine).finish :=
  if_pos h

theorem Engine.paid_more (h : e.idx + 1 ≠ e.txLen) :
    e.paid = { e with acc := csumStep e.acc (bufAt e.txBuf e.idx), idx := e.idx + 1 } :=
  if_neg h

theorem Engine.took_last (v : Byte) (h : e.idx + 1 = e.rxLen) : e.took v =
    ({ e with
      rxBuf := bufPut e.rxBuf e.idx v, acc := csumStep e.acc v, idx := e.idx + 1 } : Engine).finish :=
  if_pos h

theorem Engine.took_more (v : Byte) (h : e.idx + 1 ≠ e.rxLen) : e.took v =
    { e with rxBuf := bufPut e.rxBuf e.idx v, acc := csumStep e.acc v, idx := e.idx + 1 } :=
  if_neg h

/-! ### Ticks that each make one transfer -/

/-- So many ticks as the log gains transfers lead from `e` to `f`. -/
def Reaches (p : Params) (e f : Engine) : Prop :=
  ∃ n, Engine.ticks p n e = f ∧ f.port.trace.length = e.port.trace.length + n

theorem Reaches.refl : Reaches p e e := ⟨0, rfl, rfl⟩

theorem Engine.tick_of_busy (hb : e.state ≠ .idle) : e.tick p = e.consume.onYield p e.answer :=
  if_neg hb

theorem Reaches.of_tick (hb : e.state ≠ .idle) (h : Reaches p (e.tick p) f) : Reaches p e f := by
  obtain ⟨n, hn, hlen⟩ := h
  refine ⟨n + 1, hn, ?_⟩
  rw [hlen, Engine.tick_of_busy hb, Engine.onYield_trace, Engine.consume_port, List.length_append,
    List.length_singleton, Nat.add_assoc, Nat.add_comm 1]

/-- A transfer of the procedure is a tick of the table, if the table's row for a byte goes where the
procedure goes on. -/
theorem Reaches.xfer {o : Byte} {go : Byte → Engine → Attempt} (hb : e.state ≠ .idle)
    (ho : e.txByte p = o)
    (hgo : ∀ v evs, Reaches p ((e.moved evs).onByte p v) (go v (e.moved evs)).conclude) :
    Reaches p e (e.xfer o go).conclude := by
  subst ho
  refine .of_tick hb ?_
  obtain ⟨hy, hx⟩ | ⟨v, hy, hx⟩ := e.xfer_cases (e.txByte p) go
  · rw [hx, Engine.tick_of_busy hb, hy, Engine.onYield, Engine.consume_txByte, Engine.consume_log]
    exact .refl
  · rw [hx, Engine.tick_of_busy hb, hy, Engine.onYield, Engine.consume_txByte, Engine.consume_log]
    exact hgo v _

theorem Engine.xfer_andThen (o : Byte) (go : Byte → Engine → Attempt) (next : Engine → Attempt) :
    (e.xfer o go).andThen next = e.xfer o fun v e => (go v e).andThen next := by
  unfold Engine.xfer
  split <;> rfl

/-! ### The phases both operations have -/

/-- The search, in the phase `st` whose rows transmit `tx` and go on to `matched`. -/
theorem Reaches.search {st : LeState} {tx awaited : Byte} {matched : Engine → Engine}
    {next : Engine → Attempt} {len : Nat} (hst : st ≠ .idle)
    (htx : ∀ e : Engine, e.state = st → e.txByte p = tx)
    (hrow : ∀ (e : Engine) v, e.state = st →
      e.onByte p v = if v = awaited then matched e else e.searchMiss p)
    (hnext : ∀ e : Engine, e.state = st → e.txLen = len →
      Reaches p (matched e) (next { e with hsCnt := e.hsCnt + 1 }).conclude) :
    ∀ (n : Nat) (e : Engine), e.state = st → e.txLen = len → e.hsCnt + (n + 1) = p.hsAttempts →
      Reaches p e ((search tx awaited (n + 1) e).andThen next).conclude
  | n, e, he, hlen, hcnt => by
    rw [Machine.search, Engine.xfer_andThen]
    refine .xfer (he ▸ hst) (htx e he) fun v evs => ?_
    rw [hrow (e.moved evs) v he]
    by_cases hv : v = awaited
    · rw [if_pos hv, if_pos hv]
      exact hnext (e.moved evs) he hlen
    · rw [if_neg hv, if_neg hv]
      cases n with
      | zero =>
        rw [Engine.searchMiss_last (e := e.moved evs) hcnt]
        exact .refl
      | succ n =>
        rw [Engine.searchMiss_more (by rw [Engine.moved_hsCnt]; omega)]
        exact Reaches.search hst htx hrow hnext n { e.moved evs with hsCnt := e.hsCnt + 1 } he hlen
          (by simp only; omega)

/-- The confirmation or echo transfers, in the phase `st` whose row goes on to the phase `st'` after
`count` of them. -/
theorem Reaches.echo {st st' : LeState} {hs : Byte} {count len : Nat} {next : Engine → Attempt}
    (hst : st ≠ .idle) (htx : ∀ e : Engine, e.state = st → e.txByte p = hs)
    (hrow : ∀ (e : Engine) v, e.state = st → e.onByte p v =
      { e with echoCnt := e.echoCnt + 1, state := if e.echoCnt + 1 = count then st' else st })
    (hnext : ∀ e : Engine, e.txLen = len → Reaches p { e with state := st' } (next e).conclude) :
    ∀ (n : Nat) (e : Engine), e.state = st → e.txLen = len → e.echoCnt + (n + 1) = count →
      Reaches p e ((echo hs (n + 1) e).andThen next).conclude
  | n, e, he, hlen, hcnt => by
    rw [Machine.echo, Engine.xfer_andThen]
    refine .xfer (he ▸ hst) (htx e he) fun v evs => ?_
    rw [hrow (e.moved evs) v he, Engine.moved_echoCnt]
    cases n with
    | zero =>
      rw [if_pos hcnt]
      exact hnext { e.moved evs with echoCnt := e.echoCnt + 1 } hlen
    | succ n =>
      rw [if_neg (by omega), ← he]
      exact Reaches.echo hst htx hrow hnext n { e.moved evs with echoCnt := e.echoCnt + 1 } he hlen
        (by simp only; omega)

/-! ### SendPacket -/

/-- The outgoing packet from byte `i` on starts with cell `i`. -/
theorem Engine.txPacket_drop {i : Nat} (hi : i < e.txLen) (hfit : e.txLen ≤ 257) :
    e.txPacket.drop i = bufAt e.txBuf i :: e.txPacket.drop (i + 1) := by
  have hlen : i < e.txPacket.length := by rwa [Engine.txPacket, bufTake_length hfit]
  rw [List.drop_eq_getElem_cons hlen]
  simp only [Engine.txPacket, bufTake, bufAt, List.getElem_take, List.getD_eq_getElem?_getD]
  rw [List.getElem?_eq_getElem (by simp; omega), Option.getD_some]

theorem Reaches.sendPayload : ∀ (n : Nat) (e : Engine), e.state = .sPay → e.txLen ≤ 257 →
    e.idx + (n + 1) = e.txLen →
    Reaches p e (sendPayload (e.txPacket.drop e.idx) e).conclude
  | n, e, he, hfit, hidx => by
    rw [Engine.txPacket_drop (by omega) hfit, Machine.sendPayload]
    refine .xfer (by simp [he]) (by simp [Engine.txByte, he]) fun v evs => ?_
    have hrow : (e.moved evs).onByte p v = (e.moved evs).paid := by simp [Engine.onByte, he]
    rw [hrow]
    cases n with
    | zero =>
      have hlen := e.txPacket_length_le
      rw [Engine.paid_last (e := e.moved evs) hidx, List.drop_of_length_le (by omega)]
      exact .refl
    | succ n =>
      rw [Engine.paid_more (by rw [Engine.moved_idx, Engine.moved_txLen]; omega)]
      exact Reaches.sendPayload n { e.moved evs with
        acc := csumStep e.acc (bufAt e.txBuf e.idx), idx := e.idx + 1 }
        he hfit (by simp only [Engine.moved_txLen]; omega)

/-- SendPacket from its length transfer on. -/
def sendFromLength (e : Engine) : Attempt :=
  ({ e with state := .sLen } : Engine).xfer (lengthByte e.txLen) fun _ e =>
    sendPayload e.txPacket { e with state := .sPay, idx := 0 }

theorem Reaches.sendFromLength (hpos : 1 ≤ e.txLen) (hfit : e.txLen ≤ 257) :
    Reaches p { e with state := .sLen } (sendFromLength e).conclude :=
  .xfer (e := { e with state := .sLen }) nofun rfl fun _ evs =>
    Reaches.sendPayload (e.txLen - 1) { e.moved evs with state := .sPay, idx := 0 } rfl hfit
      (by simp only [Engine.moved_txLen]; omega)

/-- SendPacket from its confirmations on. -/
def sendFromConfirm (p : Params) (e : Engine) : Attempt :=
  (echo p.hsSend p.sendConfirmCount { e with state := .sConfirm, echoCnt := 0 }).andThen sendFromLength

theorem Reaches.sendFromConfirm (hpos : 1 ≤ e.txLen) (hfit : e.txLen ≤ 257) :
    Reaches p (e.sendMatched p) (sendFromConfirm p { e with hsCnt := e.hsCnt + 1 }).conclude := by
  rw [Machine.sendFromConfirm, Engine.sendMatched]
  cases hcount : p.sendConfirmCount with
  | zero =>
    exact Reaches.sendFromLength (e := { e with
      hsCnt := e.hsCnt + 1, state := .sConfirm, echoCnt := 0 }) hpos hfit
  | succ n =>
    exact Reaches.echo (st := .sConfirm) (st' := .sLen) (count := n + 1) (len := e.txLen) nofun
      (fun e he => by simp [Engine.txByte, he])
      (fun e v he => by simp [Engine.onByte, he, Engine.confirmed, hcount])
      (fun e' hlen => Reaches.sendFromLength (hlen ▸ hpos) (hlen ▸ hfit)) n _ rfl rfl
      (Nat.zero_add _)

theorem sendPacket_of_goodLength (hb : e.badLength p = false) :
    sendPacket p e = ((search p.hsSend p.hsSend p.hsAttempts
      { e with acc := p.seed, state := .sSearch, hsCnt := 0 }).andThen (sendFromConfirm p)).conclude :=
  if_neg (by simp [hb])

theorem startSend_of_goodLength (hb : e.badLength p = false) :
    startSend p e = { e with acc := p.seed, hsCnt := 0, state := .sSearch } :=
  if_neg (by simp [hb])

theorem startSend_of_badLength (hb : e.badLength p = true) :
    startSend p e = e.abort .invalidLength :=
  if_pos hb

/-- The step table, started on a send, reaches the end of SendPacket. -/
theorem startSend_reaches (hp : p.inRange = true) : Reaches p (startSend p e) (sendPacket p e) := by
  obtain ⟨hatt, -, hmax, -⟩ := (Params.inRange_iff p).1 hp
  cases hb : e.badLength p with
  | true =>
    rw [startSend_of_badLength hb, sendPacket_badLength hb]
    exact .refl
  | false =>
    obtain ⟨hpos, hle⟩ := (Engine.badLength_false_iff p e).1 hb
    rw [startSend_of_goodLength hb, sendPacket_of_goodLength hb, ← Nat.sub_add_cancel hatt]
    exact Reaches.search (st := .sSearch) (matched := Engine.sendMatched p) (len := e.txLen) nofun
      (fun e he => by simp [Engine.txByte, he]) (fun e v he => by simp [Engine.onByte, he])
      (fun e' _ hlen => Reaches.sendFromConfirm (by omega) (by omega)) _ _ rfl rfl
      ((Nat.zero_add _).trans (Nat.sub_add_cancel hatt))

/-! ### ReceivePacket -/

theorem Reaches.receivePayload : ∀ (n : Nat) (e : Engine), e.state = .rPay →
    e.idx + (n + 1) = e.rxLen → Reaches p e (receivePayload (n + 1) e).conclude
  | n, e, he, hidx => by
    rw [Machine.receivePayload]
    refine .xfer (by simp [he]) (by simp [Engine.txByte, he]) fun v evs => ?_
    have hrow : (e.moved evs).onByte p v = (e.moved evs).took v := by simp [Engine.onByte, he]
    rw [hrow]
    cases n with
    | zero =>
      rw [Engine.took_last (e := e.moved evs) v hidx]
      exact .refl
    | succ n =>
      rw [Engine.took_more v (by rw [Engine.moved_idx, Engine.moved_rxLen]; omega)]
      exact Reaches.receivePayload n { e.moved evs with
        rxBuf := bufPut e.rxBuf e.idx v, acc := csumStep e.acc v, idx := e.idx + 1 }
        he (by simp only [Engine.moved_rxLen]; omega)

/-- ReceivePacket from its length transfer on. -/
def receiveFromLength (e : Engine) : Attempt :=
  ({ e with state := .rLen } : Engine).xfer 0x00#8 fun v e =>
    receivePayload (lengthOf v) { e with rxLen := lengthOf v, state := .rPay, idx := 0 }

theorem Reaches.receiveFromLength (e : Engine) :
    Reaches p { e with state := .rLen } (receiveFromLength e).conclude :=
  .xfer (e := { e with state := .rLen }) nofun rfl fun v evs =>
    Reaches.receivePayload v.toNat
      { e.moved evs with rxLen := lengthOf v, state := .rPay, idx := 0 } rfl (Nat.zero_add _)

/-- ReceivePacket from its echoes on. -/
def receiveFromEcho (p : Params) (e : Engine) : Attempt :=
  (echo p.hsRecv p.recvEchoCount { e with state := .rEcho, echoCnt := 0 }).andThen receiveFromLength

theorem Reaches.receiveFromEcho (hcount : 1 ≤ p.recvEchoCount) (e : Engine) :
    Reaches p { e with state := .rEcho, echoCnt := 0 } (receiveFromEcho p e).conclude := by
  rw [Machine.receiveFromEcho, ← Nat.sub_add_cancel hcount]
  exact Reaches.echo (st := .rEcho) (st' := .rLen) (count := p.recvEchoCount) (len := e.txLen) nofun
    (fun e he => by simp [Engine.txByte, he])
    (fun e v he => by simp [Engine.onByte, he, Engine.echoed])
    (fun e' _ => Reaches.receiveFromLength e') _ _ rfl rfl
    ((Nat.zero_add _).trans (Nat.sub_add_cancel hcount))

/-- The step table, started on a receive, reaches the end of ReceivePacket. -/
theorem startReceive_reaches (hp : p.inRange = true) :
    Reaches p (startReceive p e) (receivePacket p e) := by
  obtain ⟨hatt, hcount, -, -⟩ := (Params.inRange_iff p).1 hp
  change Reaches p _ ((search 0x00#8 p.hsRecv p.hsAttempts
    { e with acc := p.seed, state := .rSearch, hsCnt := 0 }).andThen (receiveFromEcho p)).conclude
  rw [← Nat.sub_add_cancel hatt]
  exact Reaches.search (st := .rSearch) (len := e.txLen)
    (matched := fun e => { e with hsCnt := e.hsCnt + 1, echoCnt := 0, state := .rEcho }) nofun
    (fun e he => by simp [Engine.txByte, he]) (fun e v he => by simp [Engine.onByte, he])
    (fun e' _ _ => Reaches.receiveFromEcho hcount { e' with hsCnt := e'.hsCnt + 1 }) _ _ rfl rfl
    ((Nat.zero_add _).trans (Nat.sub_add_cancel hatt))

/-! ### The statements -/

/-- Ticks that reach `f` are as many as the log's new transfers. -/
theorem Reaches.ticks_eq {trace : List PortEvent} (h : Reaches p e f) (htrace : e.port.trace = trace) :
    Engine.ticks p (newEvents trace f.port.trace).length e = f := by
  obtain ⟨n, hn, hlen⟩ := h
  rwa [newEvents, List.length_drop, hlen, htrace, Nat.add_sub_cancel_left]

/-- Settles O13: the table reaches the procedure's end through the send phases, one tick a transfer. -/
theorem sendTableAgreesWithProcedure : Obligations.SendTableAgreesWithProcedure :=
  fun p e hp _ => (startSend_reaches hp).ticks_eq (congrArg Port.trace (startSend_port p e))

/-- Settles O14: the same for the receive phases. -/
theorem receiveTableAgreesWithProcedure : Obligations.ReceiveTableAgreesWithProcedure :=
  fun _ _ hp _ => (startReceive_reaches hp).ticks_eq rfl

end Sys2Proof.Machine
end

section
/-! SUPPORT. Two engines on the lockstep channel (40_link_layer.md rules R117, R118): a sender and a
receiver, phase by phase, and two peers in the same role; then the three statements. -/

namespace Sys2Proof.Machine

variable {ps pr : Params} {es er : Engine}

/-! ### One pair -/

theorem lePairs_add (m n : Nat) (x : Engine × Engine) :
    lePairs ps pr (m + n) x = lePairs ps pr n (lePairs ps pr m x) := by
  induction m generalizing x with
  | zero => rw [Nat.zero_add]; rfl
  | succ m ih =>
    rw [Nat.succ_add]
    exact ih _

/-- An engine beside its partner `f`: idle, or its `Xfer` gets the partner's byte, or, the partner being
idle, `Timeout`. -/
def Engine.beside (p : Params) (e : Engine) (q : Params) (f : Engine) : Engine :=
  if e.state = .idle then e
  else e.onYield p (if f.state = .idle then .timeout else .byte (f.txByte q))

theorem lePair_eq_beside : lePair ps pr es er = (es.beside ps pr er, er.beside pr ps es) := by
  by_cases hs : es.state = .idle <;> by_cases hr : er.state = .idle <;>
    simp [lePair, Engine.beside, hs, hr]

/-- Two outstanding transfers swap their bytes; the ports move on. -/
theorem lePair_of_busy (ps pr : Params) {st st' : LeState} (hs : es.state = st) (hr : er.state = st')
    (hst : st ≠ .idle) (hst' : st' ≠ .idle) : ∃ a b,
    lePair ps pr es er = (({ es with port := a } : Engine).onByte ps (er.txByte pr),
      ({ er with port := b } : Engine).onByte pr (es.txByte ps)) :=
  ⟨_, _, by rw [lePair, if_neg (hs ▸ hst), if_neg (hr ▸ hst')]; rfl⟩

/-! ### A sender and a receiver -/

/-- The first pair: the receiver hears the handshake byte, the sender the search byte 0x00. -/
theorem lePair_heard (hs : es.state = .sSearch) (hr : er.state = .rSearch)
    (hhs : ps.hsSend = pr.hsRecv) (hne : ps.hsSend ≠ 0x00#8) (hatt : es.hsCnt + 1 ≠ ps.hsAttempts) :
    ∃ a b, lePair ps pr es er =
      ({ es with hsCnt := es.hsCnt + 1, port := a },
        { er with hsCnt := er.hsCnt + 1, echoCnt := 0, state := .rEcho, port := b }) := by
  obtain ⟨a, b, h⟩ := lePair_of_busy ps pr hs hr nofun nofun
  simp only [Engine.onByte, Engine.txByte, hs, hr, if_neg hne.symm, if_pos hhs] at h
  rw [Engine.searchMiss_more (by exact hatt)] at h
  exact ⟨a, b, by rw [h, hs]⟩

/-- The second pair: the sender hears the first echo of its handshake byte. -/
theorem lePair_matched (hs : es.state = .sSearch) (hr : er.state = .rEcho)
    (hhs : ps.hsSend = pr.hsRecv) : ∃ a b, lePair ps pr es er =
      ({ es.sendMatched ps with port := a }, { er.echoed pr with port := b }) := by
  obtain ⟨a, b, h⟩ := lePair_of_busy ps pr hs hr nofun nofun
  simp only [Engine.onByte, Engine.txByte, hs, hr, if_pos hhs.symm] at h
  exact ⟨a, b, h⟩

/-- The searches lock in two pairs. -/
theorem lePairs_lock (hgood : es.badLength ps = false) (hhs : ps.hsSend = pr.hsRecv)
    (hne : ps.hsSend ≠ 0x00#8) (hatt : 2 ≤ ps.hsAttempts) : ∃ a b,
    lePairs ps pr 2 (startSend ps es, startReceive pr er) =
      ({ es with
          acc := ps.seed
          hsCnt := 2
          echoCnt := 0
          state := if ps.sendConfirmCount = 0 then .sLen else .sConfirm
          port := a },
        { er with
          acc := pr.seed
          hsCnt := 1
          echoCnt := 1
          state := if 1 = pr.recvEchoCount then .rLen else .rEcho
          port := b }) := by
  obtain ⟨a, b, hheard⟩ := lePair_heard (ps := ps) (pr := pr)
    (es := { es with acc := ps.seed, hsCnt := 0, state := .sSearch }) (er := startReceive pr er)
    rfl rfl hhs hne (by simp only; omega)
  obtain ⟨a', b', hmatched⟩ := lePair_matched (ps := ps) (pr := pr)
    (es := { es with acc := ps.seed, hsCnt := 1, state := .sSearch, port := a })
    (er := { startReceive pr er with hsCnt := 1, echoCnt := 0, state := .rEcho, port := b })
    rfl rfl hhs
  refine ⟨a', b', ?_⟩
  rw [startSend_of_goodLength hgood, lePairs, hheard]
  exact hmatched

/-- The confirmations of the one are the echoes of the other. -/
theorem lePairs_confirm : ∀ (n : Nat) (es er : Engine), es.state = .sConfirm → er.state = .rEcho →
    es.echoCnt + (n + 1) = ps.sendConfirmCount → er.echoCnt + (n + 1) = pr.recvEchoCount → ∃ a b,
    lePairs ps pr (n + 1) (es, er) =
      ({ es with echoCnt := ps.sendConfirmCount, state := .sLen, port := a },
        { er with echoCnt := pr.recvEchoCount, state := .rLen, port := b })
  | n, es, er, hs, hr, hcs, hcr => by
    obtain ⟨a, b, h⟩ := lePair_of_busy ps pr hs hr nofun nofun
    simp only [Engine.onByte, hs, hr, Engine.confirmed, Engine.echoed] at h
    cases n with
    | zero =>
      rw [if_pos hcs, if_pos hcr, hcs, hcr] at h
      exact ⟨a, b, h⟩
    | succ n =>
      rw [if_neg (by omega), if_neg (by omega)] at h
      rw [lePairs, h]
      exact lePairs_confirm n _ _ rfl rfl (by simp only; omega) (by simp only; omega)

/-- The receiver takes the sender's length byte for its length. -/
theorem lePair_length (hs : es.state = .sLen) (hr : er.state = .rLen) : ∃ a b,
    lePair ps pr es er =
      ({ es with state := .sPay, idx := 0, port := a },
        { er with rxLen := lengthOf (lengthByte es.txLen), state := .rPay, idx := 0, port := b }) := by
  obtain ⟨a, b, h⟩ := lePair_of_busy ps pr hs hr nofun nofun
  exact ⟨a, b, by simpa [Engine.onByte, hs, hr, Engine.txByte] using h⟩

/-- The rest of the packet crosses, byte by byte. -/
theorem lePairs_payload : ∀ (n : Nat) (es er : Engine), es.state = .sPay → er.state = .rPay →
    es.txLen ≤ 257 → es.idx + (n + 1) = es.txLen → er.idx + (n + 1) = er.rxLen → ∃ a b,
    lePairs ps pr (n + 1) (es, er) =
      ({ es with
          state := .idle
          result := .ok
          acc := csum es.acc (es.txPacket.drop es.idx)
          idx := es.txLen
          port := a },
        { er with
          state := .idle
          result := .ok
          acc := csum er.acc (es.txPacket.drop es.idx)
          rxBuf := bufPutAll er.rxBuf er.idx (es.txPacket.drop es.idx)
          idx := er.rxLen
          port := b })
  | n, es, er, hs, hr, hfit, his, hir => by
    obtain ⟨a, b, h⟩ := lePair_of_busy ps pr hs hr nofun nofun
    simp only [Engine.onByte, Engine.txByte, hs, hr] at h
    rw [Engine.txPacket_drop (by omega) hfit, csum_cons, csum_cons, bufPutAll, lePairs, h]
    cases n with
    | zero =>
      rw [Engine.paid_last (by exact his), Engine.took_last _ (by exact hir),
        List.drop_of_length_le (by have := es.txPacket_length_le; omega)]
      exact ⟨a, b, by simp [lePairs, Engine.finish, his, hir, bufPutAll]⟩
    | succ n =>
      rw [Engine.paid_more (by simp only; omega), Engine.took_more _ (by simp only; omega)]
      exact lePairs_payload n _ _ rfl rfl hfit (by simp only; omega) (by simp only; omega)


/-- With the receiver's echoes one more than the sender's confirmations, the two reach their length
transfers together. -/
theorem lePairs_aligned (hgood : es.badLength ps = false) (hhs : ps.hsSend = pr.hsRecv)
    (hne : ps.hsSend ≠ 0x00#8) (hatt : 2 ≤ ps.hsAttempts)
    (hcount : pr.recvEchoCount = ps.sendConfirmCount + 1) : ∃ a b,
    lePairs ps pr (2 + ps.sendConfirmCount) (startSend ps es, startReceive pr er) =
      ({ es with
          acc := ps.seed
          hsCnt := 2
          echoCnt := ps.sendConfirmCount
          state := .sLen
          port := a },
        { er with
          acc := pr.seed
          hsCnt := 1
          echoCnt := pr.recvEchoCount
          state := .rLen
          port := b }) := by
  obtain ⟨a, b, hlock⟩ := lePairs_lock (er := er) hgood hhs hne hatt
  rw [lePairs_add, hlock]
  cases hc : ps.sendConfirmCount with
  | zero =>
    rw [if_pos rfl, if_pos (by omega), hcount, hc]
    exact ⟨a, b, rfl⟩
  | succ n =>
    obtain ⟨a', b', hconfirm⟩ := lePairs_confirm (ps := ps) (pr := pr) n
      { es with acc := ps.seed, hsCnt := 2, echoCnt := 0, state := .sConfirm, port := a }
      { er with acc := pr.seed, hsCnt := 1, echoCnt := 1, state := .rEcho, port := b } rfl rfl
      (by simp only; omega) (by simp only; omega)
    rw [if_neg n.succ_ne_zero, if_neg (by omega), hconfirm, hc]
    exact ⟨a', b', rfl⟩

/-- The whole packet has crossed. -/
theorem lePairs_delivered (hpos : 1 ≤ es.txLen) (hle : es.txLen ≤ 256) (hp : ps.inRange = true)
    (hhs : ps.hsSend = pr.hsRecv) (hne : ps.hsSend ≠ 0x00#8) (hatt : 2 ≤ ps.hsAttempts)
    (hcount : pr.recvEchoCount = ps.sendConfirmCount + 1) : ∃ a b,
    lePairs ps pr (3 + ps.sendConfirmCount + es.txLen) (startSend ps es, startReceive pr er) =
      ({ es with
          state := .idle
          result := .ok
          acc := csum ps.seed es.txPacket
          hsCnt := 2
          echoCnt := ps.sendConfirmCount
          idx := es.txLen
          port := a },
        { er with
          state := .idle
          result := .ok
          acc := csum pr.seed es.txPacket
          rxBuf := bufPutAll er.rxBuf 0 es.txPacket
          rxLen := es.txLen
          hsCnt := 1
          echoCnt := pr.recvEchoCount
          idx := es.txLen
          port := b }) := by
  have hgood : es.badLength ps = false :=
    (Engine.badLength_false_iff ps es).2 ⟨hpos, by rw [Params.pktMax_eq hp]; exact hle⟩
  obtain ⟨a, b, haligned⟩ := lePairs_aligned (er := er) hgood hhs hne hatt hcount
  obtain ⟨a', b', hlength⟩ := lePair_length (ps := ps) (pr := pr)
    (es := { es with
      acc := ps.seed, hsCnt := 2, echoCnt := ps.sendConfirmCount, state := .sLen, port := a })
    (er := { er with
      acc := pr.seed, hsCnt := 1, echoCnt := pr.recvEchoCount, state := .rLen, port := b }) rfl rfl
  rw [lengthOf_lengthByte hpos hle] at hlength
  obtain ⟨a'', b'', hpayload⟩ := lePairs_payload (ps := ps) (pr := pr) (es.txLen - 1)
    { es with
      acc := ps.seed, hsCnt := 2, echoCnt := ps.sendConfirmCount, state := .sPay, idx := 0, port := a' }
    { er with
      acc := pr.seed, hsCnt := 1, echoCnt := pr.recvEchoCount, state := .rPay, rxLen := es.txLen,
      idx := 0, port := b' } rfl rfl (by simp only; omega) (by simp only; omega) (by simp only; omega)
  have hsplit : 3 + ps.sendConfirmCount + es.txLen =
    2 + ps.sendConfirmCount + (es.txLen - 1 + 1 + 1) := by omega
  refine ⟨a'', b'', ?_⟩
  rw [hsplit, lePairs_add, haligned, lePairs, hlength]
  exact hpayload

/-! ### A receiver that is one transfer ahead -/

/-- The receiver takes the last confirmation byte for its length. -/
theorem lePair_confirm_as_length (hs : es.state = .sConfirm) (hr : er.state = .rLen)
    (hlast : es.echoCnt + 1 = ps.sendConfirmCount) : ∃ a b,
    lePair ps pr es er =
      ({ es with echoCnt := es.echoCnt + 1, state := .sLen, port := a },
        { er with rxLen := lengthOf ps.hsSend, state := .rPay, idx := 0, port := b }) := by
  obtain ⟨a, b, h⟩ := lePair_of_busy ps pr hs hr nofun nofun
  simp only [Engine.onByte, Engine.txByte, hs, hr, Engine.confirmed, if_pos hlast] at h
  exact ⟨a, b, h⟩

/-- The receiver takes the length byte for a payload byte that is not its last. -/
theorem lePair_length_as_payload (hs : es.state = .sLen) (hr : er.state = .rPay)
    (hmore : er.idx + 1 ≠ er.rxLen) : ∃ b,
    (lePair ps pr es er).2 =
      { er with
        rxBuf := bufPut er.rxBuf er.idx (lengthByte es.txLen)
        acc := csumStep er.acc (lengthByte es.txLen)
        idx := er.idx + 1
        port := b } := by
  obtain ⟨a, b, h⟩ := lePair_of_busy ps pr hs hr nofun nofun
  simp only [Engine.onByte, Engine.txByte, hs, hr] at h
  rw [Engine.took_more _ (by exact hmore)] at h
  exact ⟨b, by rw [h, hr]⟩

theorem lengthOf_ne_one {v : Byte} (h : v ≠ 0x00#8) : 1 ≠ lengthOf v := by
  have hv : v.toNat ≠ 0 := fun h0 => h (BitVec.eq_of_toNat_eq h0)
  rw [lengthOf]
  omega

/-- From its length transfer beside the sender's last confirmation, the receiver goes on into a payload
of as many bytes as the handshake byte says, the sender's length byte the first. -/
theorem lePairs_misaligned (hs : es.state = .sConfirm) (hr : er.state = .rLen)
    (hlast : es.echoCnt + 1 = ps.sendConfirmCount) (hne : ps.hsSend ≠ 0x00#8) : ∃ b,
    (lePairs ps pr 2 (es, er)).2 =
      { er with
        state := .rPay
        rxLen := lengthOf ps.hsSend
        rxBuf := bufPut er.rxBuf 0 (lengthByte es.txLen)
        acc := csumStep er.acc (lengthByte es.txLen)
        idx := 1
        port := b } := by
  obtain ⟨a, b, h⟩ := lePair_confirm_as_length (pr := pr) hs hr hlast
  rw [lePairs, h]
  exact lePair_length_as_payload rfl rfl (lengthOf_ne_one hne)

theorem bufAt_bufPut_self {n : Nat} (buf : Vector Byte n) {i : Nat} (hi : i < n) (v : Byte) :
    bufAt (bufPut buf i v) i = v := by
  simp [bufAt, hi]

/-! ### Two peers in the same role -/

/-- In the phase `st` the engine transmits `tx`, and `heard` is not the byte it searches for. -/
structure DeafTo (p : Params) (st : LeState) (tx heard : Byte) : Prop where
  txByte : ∀ e : Engine, e.state = st → e.txByte p = tx
  miss : ∀ e : Engine, e.state = st → e.onByte p heard = e.searchMiss p

theorem deafTo_sSearch {p : Params} {heard : Byte} (h : heard ≠ p.hsSend) :
    DeafTo p .sSearch p.hsSend heard where
  txByte e he := by simp [Engine.txByte, he]
  miss e he := by simp [Engine.onByte, he, h]

theorem deafTo_rSearch {p : Params} (h : p.hsRecv ≠ 0x00#8) : DeafTo p .rSearch 0x00#8 0x00#8 where
  txByte e he := by simp [Engine.txByte, he]
  miss e he := by simp [Engine.onByte, he, h.symm]

/-- How a search among deaf peers ends, `own` and `other` being the two bounds: a peer that outlasts
the other runs into its silence. -/
def searchFailure (own other : Nat) : Result :=
  if own ≤ other then .err .handshakeTimeout else .err .byteTimeout

/-- A peer after `n` pairs of a search that nobody answers: still searching, or failed. -/
def Unanswered (st : LeState) (own other n : Nat) (e : Engine) : Prop :=
  (n < own ∧ n ≤ other ∧ e.state = st ∧ e.hsCnt = n) ∨
  ((own ≤ n ∨ other < n) ∧ e.state = .idle ∧ e.result = searchFailure own other)

/-- One more pair of an unanswered search. -/
theorem Unanswered.beside {st : LeState} {p q : Params} {tx heard : Byte} {n : Nat} {e f : Engine}
    (hst : st ≠ .idle) (hp : DeafTo p st tx heard) (hq : DeafTo q st heard tx)
    (he : Unanswered st p.hsAttempts q.hsAttempts n e)
    (hf : Unanswered st q.hsAttempts p.hsAttempts n f) :
    Unanswered st p.hsAttempts q.hsAttempts (n + 1) (e.beside p q f) := by
  obtain ⟨hown, hother, hes, hcnt⟩ | ⟨hend, hidle, hres⟩ := he
  · rw [Engine.beside, if_neg (hes ▸ hst)]
    obtain ⟨hown', hother', hfs, -⟩ | ⟨hend', hfidle, -⟩ := hf
    · rw [if_neg (hfs ▸ hst), hq.txByte f hfs, Engine.onYield,
        hp.miss (e.log _) hes]
      by_cases hlast : n + 1 = p.hsAttempts
      · rw [Engine.searchMiss_last (by rw [Engine.log_hsCnt, hcnt]; exact hlast)]
        exact .inr ⟨.inl hlast.ge, rfl, (if_pos (by omega)).symm⟩
      · rw [Engine.searchMiss_more (by rw [Engine.log_hsCnt, hcnt]; exact hlast)]
        exact .inl ⟨by omega, by omega, hes, congrArg Nat.succ hcnt⟩
    · rw [if_pos hfidle]
      exact .inr ⟨.inr (by omega), rfl, (if_neg (by omega)).symm⟩
  · rw [Engine.beside, if_pos hidle]
    exact .inr ⟨by omega, hidle, hres⟩

/-- Two peers deaf to each other, after any number of pairs. -/
theorem lePairs_unanswered {st : LeState} {pa pb : Params} {ta tb : Byte} (hst : st ≠ .idle)
    (hpa : DeafTo pa st ta tb) (hpb : DeafTo pb st tb ta) : ∀ (n k : Nat) (x : Engine × Engine),
    Unanswered st pa.hsAttempts pb.hsAttempts k x.1 →
    Unanswered st pb.hsAttempts pa.hsAttempts k x.2 →
    Unanswered st pa.hsAttempts pb.hsAttempts (k + n) (lePairs pa pb n x).1 ∧
      Unanswered st pb.hsAttempts pa.hsAttempts (k + n) (lePairs pa pb n x).2
  | 0, _, _, ha, hb => ⟨ha, hb⟩
  | n + 1, k, x, ha, hb => by
    rw [lePairs, lePair_eq_beside, ← Nat.succ_add_eq_add_succ]
    exact lePairs_unanswered hst hpa hpb n (k + 1) _ (ha.beside hst hpa hpb hb)
      (hb.beside hst hpb hpa ha)

/-- What two peers that never lock have come to. -/
theorem Unanswered.searching_or_failed {st : LeState} {own other n : Nat} {e : Engine}
    (h : Unanswered st own other n e) :
    e.state = st ∨ e.state = .idle ∧ e.result = searchFailure own other :=
  h.imp (fun ⟨_, _, hst, _⟩ => hst) And.right

theorem Unanswered.idle_of_le {st : LeState} {own other n : Nat} {e : Engine}
    (h : Unanswered st own other n e) (hle : own ≤ n) : e.state = .idle := by
  obtain ⟨hlt, -⟩ | ⟨-, hidle, -⟩ := h
  · omega
  · exact hidle

/-! ### The statements -/

/-- Settles O15: the pairs up to the length, the length, and the payload. -/
theorem alignedLinkDelivers : Obligations.AlignedLinkDelivers := by
  rintro ps pr es er - - hpos hle hhs hne hseed hatt hp - hcount x rfl
  obtain ⟨a, b, h⟩ := lePairs_delivered (er := er) hpos hle hp hhs hne hatt hcount
  have hlen : es.txPacket.length = es.txLen := bufTake_length (by omega)
  have hpacket := bufTake_bufPutAll er.rxBuf (bs := es.txPacket) (by omega)
  rw [hlen] at hpacket
  rw [h, ← hseed]
  exact ⟨rfl, rfl, rfl, rfl, rfl, hpacket, rfl, rfl⟩

/-- Settles O16: after one echo the receiver is at its length transfer while the sender confirms. -/
theorem misalignedLinkReadsConfirmation : Obligations.MisalignedLinkReadsConfirmation := by
  rintro ps pr es er - - hpos hle hhs hne hatt hp - hconfirm hecho x rfl
  have hgood : es.badLength ps = false :=
    (Engine.badLength_false_iff ps es).2 ⟨hpos, by rw [Params.pktMax_eq hp]; exact hle⟩
  obtain ⟨a, b, hlock⟩ := lePairs_lock (er := er) hgood hhs hne hatt
  rw [hconfirm, hecho, if_neg Nat.one_ne_zero, if_pos rfl] at hlock
  obtain ⟨b', hmisaligned⟩ := lePairs_misaligned (ps := ps) (pr := pr)
    (es := { es with acc := ps.seed, hsCnt := 2, echoCnt := 0, state := .sConfirm, port := a })
    (er := { er with acc := pr.seed, hsCnt := 1, echoCnt := 1, state := .rLen, port := b }) rfl rfl
    hconfirm.symm hne
  rw [lePairs_add 2 2, hlock, hmisaligned]
  exact ⟨rfl, rfl, bufAt_bufPut_self er.rxBuf (by decide) _⟩

/-- Settles O17: each peer's search goes unanswered. -/
theorem roleConfusionNeverLocks : Obligations.RoleConfusionNeverLocks := by
  rintro pa pb a b start searching ha hb hrole failure rfl n x rfl
  have hstart : ∃ ta tb, searching ≠ .idle ∧ DeafTo pa searching ta tb ∧ DeafTo pb searching tb ta ∧
      (start pa a).state = searching ∧ (start pa a).hsCnt = 0 ∧
      (start pb b).state = searching ∧ (start pb b).hsCnt = 0 := by
    obtain ⟨rfl, rfl, -, -, hga, hgb, hne⟩ | ⟨rfl, rfl, hna, hnb⟩ := hrole
    · rw [startSend_of_goodLength hga, startSend_of_goodLength hgb]
      exact ⟨_, _, nofun, deafTo_sSearch hne.symm, deafTo_sSearch hne, rfl, rfl, rfl, rfl⟩
    · exact ⟨_, _, nofun, deafTo_rSearch hna, deafTo_rSearch hnb, rfl, rfl, rfl, rfl⟩
  obtain ⟨ta, tb, hst, hda, hdb, has, hac, hbs, hbc⟩ := hstart
  obtain ⟨hfst, hsnd⟩ := lePairs_unanswered hst hda hdb n 0 (start pa a, start pb b)
    (.inl ⟨ha, Nat.zero_le _, has, hac⟩) (.inl ⟨hb, Nat.zero_le _, hbs, hbc⟩)
  rw [Nat.zero_add] at hfst hsnd
  exact ⟨hfst.searching_or_failed, hsnd.searching_or_failed,
    fun hna hnb => ⟨hfst.idle_of_le hna, hsnd.idle_of_le hnb⟩⟩

end Sys2Proof.Machine
end

section
/-! SUPPORT. A delivered command (41_dispatch.md rules R142-R154): the replies the CD builds, what a
SendPacket leaves alone, which transaction or confirmation a command is, and what each does; then the
statements on the commands. -/

namespace Sys2Proof.Machine

/-! ### The replies -/

theorem bufAt_bufPut_ne {n : Nat} (buf : Vector Byte n) {i k : Nat} (h : i ≠ k) (b : Byte) :
    bufAt (bufPut buf i b) k = bufAt buf k := by
  simp [bufAt, List.getElem?_set_ne h]

/-- Cells at or past the end of what is written in order are left alone. -/
theorem bufAt_bufPutAll_of_le {n : Nat} {k : Nat} : ∀ (bs : List Byte) (buf : Vector Byte n) (i : Nat),
    i + bs.length ≤ k → bufAt (bufPutAll buf i bs) k = bufAt buf k
  | [], _, _, _ => rfl
  | b :: bs, buf, i, h => by
    simp only [List.length_cons] at h
    rw [bufPutAll, bufAt_bufPutAll_of_le bs _ _ (by omega), bufAt_bufPut_ne buf (by omega)]

theorem Responder.makeUnexpected_txPacket (r : Responder) :
    r.makeUnexpected.eng.txPacket = [0x00#8] :=
  Engine.stage_txPacket (Nat.le_of_ble_eq_true rfl)

/-- Settles O22: staging one byte writes one cell. -/
theorem makeUnexpectedWrites : Obligations.MakeUnexpectedWrites :=
  fun _ => rfl

/-- Settles O23: each staged packet is the encoding of its response. -/
theorem repliesDecode : Obligations.RepliesDecode := by
  intro r
  rw [r.makeAck_txPacket, r.makeUnexpected_txPacket]
  exact ⟨rfl, fun i hi => bufAt_bufPutAll_of_le _ r.eng.txBuf 0 hi,
    decodeOfEncode (.rspOkWithChecksum r.eng.acc) rfl, decodeOfEncode .rspUnexpectedCommand rfl⟩

/-! ### What a SendPacket leaves alone -/

section
variable (p : Params) {e : Engine}

/-- SendPacket writes `ACC`, its counters, `LE_STATE`, `LE_RESULT` and the port alone. -/
theorem sendPacket_eq_with (hi : e.state = .idle) : ∃ acc hs echoes ix result port,
    sendPacket p e =
      { e with
        acc := acc, hsCnt := hs, echoCnt := echoes, idx := ix, result := result, port := port } := by
  cases hb : e.badLength p with
  | true =>
    rw [sendPacket_badLength hb, e.abort_of_not_receiving _ (by rw [hi]; rfl), ← hi]
    exact ⟨_, _, _, _, _, _, rfl⟩
  | false =>
    obtain ⟨evs, r, sent, hs, echoes, ix, heq, -⟩ := sendPacket_spec p e hb
    rw [heq, sendEnd, ← hi]
    exact ⟨_, _, _, _, _, _, rfl⟩

theorem sendPacket_rxBuf (hi : e.state = .idle) : (sendPacket p e).rxBuf = e.rxBuf := by
  obtain ⟨_, _, _, _, _, _, h⟩ := sendPacket_eq_with p hi
  rw [h]

theorem sendPacket_rxLen (hi : e.state = .idle) : (sendPacket p e).rxLen = e.rxLen := by
  obtain ⟨_, _, _, _, _, _, h⟩ := sendPacket_eq_with p hi
  rw [h]

theorem sendPacket_draws (hi : e.state = .idle) : (sendPacket p e).draws = e.draws := by
  obtain ⟨_, _, _, _, _, _, h⟩ := sendPacket_eq_with p hi
  rw [h]

theorem sendPacket_txPacket (hi : e.state = .idle) : (sendPacket p e).txPacket = e.txPacket := by
  obtain ⟨_, _, _, _, _, _, h⟩ := sendPacket_eq_with p hi
  rw [h]
  rfl

end

/-! ### Which transaction or confirmation a command is -/

section
variable {s t : State} {i : Instr} {run : State → State}

theorem State.onReservedCommand_wConf (hcd : s.target.cd = .wConf) (opcode : Byte) :
    s.onReservedCommand opcode = s.confirmWrite opcode := by
  rw [State.onReservedCommand, hcd]

theorem State.onReservedCommand_rConf (hcd : s.target.cd = .rConf) (opcode : Byte) :
    s.onReservedCommand opcode = s.confirmRead opcode := by
  rw [State.onReservedCommand, hcd]

theorem State.onReservedCommand_dispatch (hcd : s.target.cd = .dispatch) (opcode : Byte) :
    s.onReservedCommand opcode = s.gotoCd .awaitCmd := by
  rw [State.onReservedCommand, hcd]
  rfl

/-- In phase 2 a command is what its opcode would be in a packet of no command. -/
theorem State.onCommand_confirming (run : State → State) (hwf : i.wellFormed = true)
    (hi : s.target.eng.state = .idle) (hcd : s.target.cd = .wConf ∨ s.target.cd = .rConf) :
    s.onCommand i run = .next (s.onReservedCommand i.opcode) := by
  rw [State.onCommand, if_neg (by simp [hwf]), if_neg (not_not.2 hi), State.onReservedCommand]
  rcases hcd with hcd | hcd <;> rw [hcd]

theorem exec_confirming (hd : i.direction = .h2t) (hwf : i.wellFormed = true)
    (hi : s.target.eng.state = .idle) (hcd : s.target.cd = .wConf ∨ s.target.cd = .rConf) :
    exec i s = .next (s.onReservedCommand i.opcode) := by
  obtain ⟨run, hexec⟩ := exec_command hd s
  rw [hexec, State.onCommand_confirming run hwf hi hcd]

/-- What a delivered command does if it answers a next state. -/
theorem State.onCommand_next (h : s.onCommand i run = .next t) : s.target.eng.state = .idle ∧
    (s.target.cd = .dispatch ∧ t = run s ∨
      (s.target.cd = .wConf ∨ s.target.cd = .rConf) ∧ t = s.onReservedCommand i.opcode) := by
  cases hwf : i.wellFormed with
  | false =>
    rw [State.onCommand_of_not_wellFormed run hwf] at h
    cases h
  | true =>
    by_cases hi : s.target.eng.state = .idle
    · refine ⟨hi, ?_⟩
      by_cases hdisp : s.target.cd = .dispatch
      · rw [State.onCommand_dispatch run hwf hi hdisp] at h
        cases h
        exact .inl ⟨hdisp, rfl⟩
      · by_cases hconf : s.target.cd = .wConf ∨ s.target.cd = .rConf
        · rw [State.onCommand_confirming run hwf hi hconf] at h
          cases h
          exact .inr ⟨hconf, rfl⟩
        · obtain ⟨hw, hr⟩ := not_or.1 hconf
          rw [State.onCommand_of_not_awaited run hwf hi hdisp hw hr] at h
          cases h
    · rw [State.onCommand_of_busy run hwf hi] at h
      cases h

end

/-- Settles O35: in phase 2 a command that runs at all is its opcode's confirmation. -/
theorem confirmationReadsByteZero : Obligations.ConfirmationReadsByteZero := by
  intro s i i' hd hd' hwf hwf' hop hcd
  by_cases hi : s.target.eng.state = .idle
  · rw [exec_confirming hd hwf hi hcd, exec_confirming hd' hwf' hi hcd, hop]
  · obtain ⟨run, hexec⟩ := exec_command hd s
    obtain ⟨run', hexec'⟩ := exec_command hd' s
    rw [hexec, hexec', State.onCommand_of_busy run hwf hi, State.onCommand_of_busy run' hwf' hi]

/-! ### The transactions -/

section
variable {s : State}

/-- CHECK_STATUS in `DISPATCH` is its ack, whether or not it gets out. -/
theorem State.runCheckStatus_eq : s.runCheckStatus = s.sendAck .awaitCmd := rfl

/-- Without its address a WRITE_MEMORY_REGION ends after its ack, whether or not that gets out. -/
theorem State.runWrite_short (bytes : List Byte) :
    s.runWrite (.short bytes) = s.sendAck .awaitCmd :=
  ite_self _

/-- Without its fields a READ_MEMORY_REGION ends after its ack, whether or not that gets out. -/
theorem State.runRead_short (bytes : List Byte) : s.runRead (.short bytes) = s.sendAck .awaitCmd :=
  ite_self _

theorem State.runWrite_of_ack_lost (h : (s.sendAck .awaitCmd).target.eng.result ≠ .ok)
    (ops : WriteOperands) : s.runWrite ops = s.sendAck .awaitCmd :=
  if_neg h

theorem State.runRead_of_ack_lost (h : (s.sendAck .awaitCmd).target.eng.result ≠ .ok)
    (ops : ReadOperands) : s.runRead ops = s.sendAck .awaitCmd :=
  if_neg h

theorem State.runWrite_of_ack_sent (h : (s.sendAck .awaitCmd).target.eng.result = .ok)
    (ops : WriteOperands) : s.runWrite ops = (s.sendAck .wDecode).writePhase1 ops :=
  if_pos h

theorem State.runRead_of_ack_sent (h : (s.sendAck .awaitCmd).target.eng.result = .ok)
    (ops : ReadOperands) : s.runRead ops = (s.sendAck .rDecode).readPhase1 ops :=
  if_pos h

end

/-- Settles O24: the ack, sent or not, is the whole of CHECK_STATUS. -/
theorem checkStatusCompletes : Obligations.CheckStatusCompletes := by
  intro s trailing hlen hi hcd
  have hexec : exec (.checkStatus trailing) s = _ :=
    State.onCommand_dispatch _ (decide_eq_true hlen) hi hcd
  rw [State.runCheckStatus_eq] at hexec
  refine ⟨_, hexec, rfl, rfl, ?_, sendPacket_state, sendPacket_rxBuf _ hi, sendPacket_rxLen _ hi,
    sendPacket_draws _ hi⟩
  exact (sendPacket_txPacket s.cfg.target (e := s.target.makeAck.eng) hi).trans
    s.target.makeAck_txPacket

/-- Settles O28: a short form is its ack alone. -/
theorem shortCommandsEndAfterAck : Obligations.ShortCommandsEndAfterAck := by
  intro s bytes hi hcd
  constructor
  · intro hlen
    have hexec : exec (.writeMemoryRegion (.short bytes)) s = _ :=
      State.onCommand_dispatch _ (decide_eq_true hlen) hi hcd
    rw [hexec, State.runWrite_short]
    rfl
  · intro hlen
    have hexec : exec (.readMemoryRegion (.short bytes)) s = _ :=
      State.onCommand_dispatch _ (decide_eq_true hlen) hi hcd
    rw [hexec, State.runRead_short]
    rfl

/-- Settles O29: without its ack a copy command is that failed ack alone. -/
theorem ackFailureAbandons : Obligations.AckFailureAbandons := by
  rintro s i addr data trailing n1 (rfl | rfl) hwf hi hcd hfail
  · have hexec : exec (.writeMemoryRegion (.full addr data)) s = _ :=
      State.onCommand_dispatch _ hwf hi hcd
    rw [hexec, State.runWrite_of_ack_lost hfail]
    rfl
  · have hexec : exec (.readMemoryRegion (.full addr n1 trailing)) s = _ :=
      State.onCommand_dispatch _ hwf hi hcd
    rw [hexec, State.runRead_of_ack_lost hfail]
    rfl

/-- Settles O32: neither opcode 0x03 nor a reserved one starts a transaction. -/
theorem unknownOpcodeIsSilent : Obligations.UnknownOpcodeIsSilent :=
  fun _ hcd => ⟨fun _ hlen hi => State.onCommand_dispatch _ (decide_eq_true hlen) hi hcd,
    State.onReservedCommand_dispatch hcd⟩

end Sys2Proof.Machine
end

section
/-! SUPPORT. Phase 1 of WRITE_MEMORY_REGION (41_dispatch.md rule R145), the answers to phase 2 (rules
R148-R157) over a channel that lets them out, and the frame of all commands; then the statements. -/

namespace Sys2Proof.Machine

/-! ### WRITE_MEMORY_REGION's phase 1 -/

/-- The state in `W_CONF` after `data` has been written from `addr` on. -/
def State.writeCopied (addr : Word) (data : List Byte) (s : State) : State :=
  { s with
    mem := copied Config.addrBits s.mem s.otherStores addr 0 data
    otherStores := s.otherStores.drop data.length
    target :=
      { s.target with
        cd := .wConf
        addr := addr
        cnt := data.length
        j := data.length
        eng :=
          { s.target.eng with
            port :=
              { s.target.eng.port with
                trace := s.target.eng.port.trace ++ writeEvents addr data } } } }

/-- From `W_DECODE` on a WRITE_MEMORY_REGION with its address is one write copy. -/
theorem State.writePhase1_full (s : State) (hp : s.cfg.inRange = true) (addr : Word)
    (data : List Byte) : s.writePhase1 (.full addr data) = s.writeCopied addr data := by
  have haddr := Params.addrBits_eq (LinkParams.target_inRange hp)
  simp [State.writePhase1, State.copyOut_spec, State.onTarget, State.gotoCd, Responder.goto,
    writeEvents, State.writeCopied, haddr]

/-- WRITE_MEMORY_REGION's phase 1 when its ack gets out: the ack, then the write copy. -/
theorem State.runWrite_full_of_answers {s : State} {vs : List Byte} {rest : List Yield}
    (hp : s.cfg.inRange = true) (ha : AnswersSend s.cfg.target 5 vs)
    (hin : s.target.eng.port.inbox = byteYields vs ++ rest) (addr : Word) (data : List Byte) :
    s.runWrite (.full addr data) =
      (s.onTarget (·.onEng fun _ => sendDone s.cfg.target s.target.makeAck.eng vs rest)).writeCopied
        addr data := by
  have hok : (s.sendAck .awaitCmd).target.eng.result = .ok := by
    rw [State.sendAck_of_answers _ ha hin]
    rfl
  have hcopy := (s.sendAck .wDecode).writePhase1_full hp addr data
  rw [State.runWrite_of_ack_sent hok, hcopy, State.sendAck_of_answers _ ha hin]
  rfl

/-- Settles O26: the ack goes out, then the write copy stores the data. -/
theorem writeMemoryRegionCompletes : Obligations.WriteMemoryRegionCompletes := by
  intro s addr data vs rest hlen hp hmem hi hcd ha hin
  have hexec : exec (.writeMemoryRegion (.full addr data)) s = _ :=
    State.onCommand_dispatch _ (decide_eq_true hlen) hi hcd
  rw [State.runWrite_full_of_answers hp ha hin] at hexec
  refine ⟨_, hexec, rfl, rfl, rfl, rfl, rfl, rfl, s.target.makeAck_txPacket, ?_, ?_, ?_⟩
  · exact congrArg (· ++ writeEvents addr data)
      (Responder.makeAck_sendDone_trace s.cfg.target s.target vs rest)
  · intro hundisturbed j hj
    have hread := copied_inside data s.mem s.otherStores addr 0 hmem hundisturbed (by omega) j hj
    rwa [Nat.zero_add] at hread
  · intro k hcopy hstores
    exact copied_outside data s.mem s.otherStores addr 0 k hmem (by simpa [OutsideCopy] using hcopy)
      hstores

/-! ### The answers to phase 2 -/

section
variable {s : State} {vs : List Byte} {rest : List Yield}

/-- The state in `AWAIT_CMD` after the packet that `e` holds has been sent, `vs` coming back. -/
def State.replied (e : Engine) (vs : List Byte) (rest : List Yield) (s : State) : State :=
  { s with target := { s.target with cd := .awaitCmd, eng := sendDone s.cfg.target e vs rest } }

/-- CHECK_STATUS confirms a write with the checksum held in `ACC`. -/
theorem State.confirmWrite_match (ha : AnswersSend s.cfg.target 5 vs)
    (hin : s.target.eng.port.inbox = byteYields vs ++ rest) :
    s.confirmWrite 0x00#8 = s.replied s.target.makeAck.eng vs rest := by
  have hsend : sendPacket s.cfg.target s.target.makeAck.eng = sendDone s.cfg.target _ vs rest :=
    sendPacket_eq_sendDone (Nat.le_of_ble_eq_true rfl) ha hin
  rw [State.confirmWrite_eq, State.replied, ← hsend]
  rfl

/-- READ_MEMORY_REGION_DATA confirms a read, whose reply stands in `TX_BUF`. -/
theorem State.confirmRead_match (hfit : s.target.eng.txLen ≤ 257)
    (ha : AnswersSend s.cfg.target s.target.eng.txLen vs)
    (hin : s.target.eng.port.inbox = byteYields vs ++ rest) :
    s.confirmRead 0x03#8 = s.replied s.target.eng vs rest := by
  rw [State.confirmRead_eq, State.replied, ← sendPacket_eq_sendDone hfit ha hin]
  rfl

/-- Whatever else comes in phase 2 is answered with UnexpectedCommand. -/
theorem State.onReservedCommand_mismatch {opcode : Byte} (ha : AnswersSend s.cfg.target 1 vs)
    (hin : s.target.eng.port.inbox = byteYields vs ++ rest)
    (hop : (s.target.cd = .wConf ∧ opcode ≠ 0x00#8) ∨ (s.target.cd = .rConf ∧ opcode ≠ 0x03#8)) :
    s.onReservedCommand opcode = s.replied s.target.makeUnexpected.eng vs rest := by
  have hsend : sendPacket s.cfg.target s.target.makeUnexpected.eng =
      sendDone s.cfg.target _ vs rest :=
    sendPacket_eq_sendDone (Nat.le_of_ble_eq_true rfl) ha hin
  rw [State.replied, ← hsend]
  rcases hop with ⟨hcd, hne⟩ | ⟨hcd, hne⟩
  · rw [State.onReservedCommand_wConf hcd, State.confirmWrite_eq, if_neg hne]
    rfl
  · rw [State.onReservedCommand_rConf hcd, State.confirmRead_eq, if_neg hne]
    rfl

end

/-- Settles O30: the matching confirmation sends the reply that stands in `TX_BUF`. -/
theorem readDataConfirmationReplies : Obligations.ReadDataConfirmationReplies := by
  intro s trailing vs rest hlen hi hcd _ hle ha hin
  have hexec : exec (.readMemoryRegionData trailing) s = _ :=
    exec_confirming rfl (decide_eq_true hlen) hi (.inr hcd)
  rw [State.onReservedCommand_rConf hcd] at hexec
  refine ⟨_, hexec.trans (congrArg _ (State.confirmRead_match (Nat.le_succ_of_le hle) ha hin)), rfl,
    rfl, rfl, rfl, rfl, rfl, rfl, rfl, rfl⟩

/-- Settles O31: a `TX_LEN` of 257 is rejected before anything is sent. -/
theorem read256IsNeverSent : Obligations.Read256IsNeverSent := by
  intro s trailing hlen hp hi hcd htx
  have hexec : exec (.readMemoryRegionData trailing) s = _ :=
    exec_confirming rfl (decide_eq_true hlen) hi (.inr hcd)
  have hsend := sendPacket_of_length_outside (LinkParams.target_inRange hp) hi (.inr (by omega))
  rw [hexec, State.onReservedCommand_rConf hcd, State.confirmRead_eq, ← hsend]
  rfl

/-- Settles O34: every mismatch is the same reply, whichever packet it came in. -/
theorem mismatchGetsUnexpected : Obligations.MismatchGetsUnexpected := by
  intro s vs rest hi ha hin opcode hop
  have hreply := State.onReservedCommand_mismatch ha hin hop
  refine ⟨_, fun i hd hwf hopcode => ?_, hreply, rfl, rfl, rfl, rfl, rfl, rfl, ?_⟩
  · rw [exec_confirming hd hwf hi (hop.imp And.left And.left), hopcode, hreply]
  · rw [← s.target.makeUnexpected_txPacket]
    rfl

/-! ### The frame of the commands -/

/-- The packet the CD has latched and the one its LE holds, with the count of free values. -/
def Responder.packets (r : Responder) : Byte × Nat × Vector Byte 256 × Nat × Nat :=
  (r.cmd, r.cmdLen, r.eng.rxBuf, r.eng.rxLen, r.eng.draws)

theorem Responder.packets_eq_iff {r r' : Responder} : r'.packets = r.packets ↔
    r'.cmd = r.cmd ∧ r'.cmdLen = r.cmdLen ∧ r'.eng.rxBuf = r.eng.rxBuf ∧
      r'.eng.rxLen = r.eng.rxLen ∧ r'.eng.draws = r.eng.draws := by
  simp [Responder.packets]

/-- What a copy changes: memory, the other agents' stores and the CD's registers for it. -/
def State.copySide (s : State) : Memory × List (List (Word × Byte)) × Word × Nat × Nat :=
  (s.mem, s.otherStores, s.target.addr, s.target.cnt, s.target.j)

theorem State.copySide_eq_iff {s t : State} : t.copySide = s.copySide ↔
    t.mem = s.mem ∧ t.otherStores = s.otherStores ∧ t.target.addr = s.target.addr ∧
      t.target.cnt = s.target.cnt ∧ t.target.j = s.target.j := by
  simp [State.copySide]

/-- What every command leaves: all but the Responder and memory, and of the Responder its packets. -/
structure State.Frame (s t : State) : Prop where
  rest : ∃ r m o, t = { s with target := r, mem := m, otherStores := o }
  packets : t.target.packets = s.target.packets

/-- A command has run: its frame is kept, the LE is idle and the CD listens. -/
structure State.Answered (s t : State) : Prop extends State.Frame s t where
  idle : t.target.eng.state = .idle
  listening : t.target.cd.listening = true

section
variable {s t u : State}

theorem State.Frame.trans (h : s.Frame t) (h' : t.Frame u) : s.Frame u := by
  obtain ⟨⟨r, m, o, rfl⟩, hpackets⟩ := h
  obtain ⟨⟨r', m', o', rfl⟩, hpackets'⟩ := h'
  exact ⟨⟨_, _, _, rfl⟩, hpackets'.trans hpackets⟩

theorem State.Frame.answered (h : s.Frame t) (h' : t.Answered u) : s.Answered u :=
  { h' with toFrame := h.trans h'.toFrame }

theorem State.onTarget_frame {f : Responder → Responder}
    (h : (f s.target).packets = s.target.packets) : s.Frame (s.onTarget f) :=
  ⟨⟨_, _, _, rfl⟩, h⟩

theorem State.gotoCd_answered (hi : s.target.eng.state = .idle) {cd : CdState}
    (hcd : cd.listening = true) : s.Answered (s.gotoCd cd) :=
  ⟨State.onTarget_frame rfl, hi, hcd⟩

theorem State.copyOut_frame (data : List Byte) : s.Frame (s.copyOut data) := by
  rw [State.copyOut_spec]
  exact ⟨⟨_, _, _, rfl⟩, rfl⟩

theorem State.copyIn_frame (n : Nat) : s.Frame (s.copyIn n) := by
  rw [State.copyIn_spec]
  exact ⟨⟨_, _, _, rfl⟩, rfl⟩

/-- A SendPacket keeps the packets the Responder has received. -/
theorem State.sendFromTarget_frame (hi : s.target.eng.state = .idle) : s.Frame s.sendFromTarget :=
  State.onTarget_frame (Responder.packets_eq_iff.2 ⟨rfl, rfl, sendPacket_rxBuf _ hi,
    sendPacket_rxLen _ hi, sendPacket_draws _ hi⟩)

theorem State.sendAck_frame (hi : s.target.eng.state = .idle) (cd : CdState) :
    s.Frame (s.sendAck cd) :=
  .trans (t := s.onTarget fun r => r.makeAck.goto cd) (State.onTarget_frame rfl)
    (State.sendFromTarget_frame hi)

theorem State.sendAck_answered (hi : s.target.eng.state = .idle) :
    s.Answered (s.sendAck .awaitCmd) :=
  ⟨State.sendAck_frame hi _, State.sendAck_idle _ _, rfl⟩

/-- A phase-2 reply, whatever it is, ends the transaction. -/
theorem State.sendReply_answered {make : Responder → Responder} {cd : CdState}
    (hi : (make s.target).eng.state = .idle) (h : (make s.target).packets = s.target.packets) :
    s.Answered (s.sendReply make cd) :=
  State.Frame.answered (t := s.onTarget fun r => (make r).goto cd) (State.onTarget_frame h)
    ((State.sendFromTarget_frame hi).answered
      (State.gotoCd_answered (State.sendFromTarget_idle _) rfl))

theorem State.onReservedCommand_answered (hi : s.target.eng.state = .idle) (opcode : Byte) :
    s.Answered (s.onReservedCommand opcode) := by
  unfold State.onReservedCommand
  split
  · exact State.sendReply_answered (by split <;> exact hi) (by split <;> rfl)
  · exact State.sendReply_answered (by split <;> exact hi) (by split <;> rfl)
  · exact State.gotoCd_answered hi rfl

theorem State.onReservedCommand_copySide (s : State) (opcode : Byte) :
    (s.onReservedCommand opcode).copySide = s.copySide := by
  unfold State.onReservedCommand
  split
  · rw [State.confirmWrite_eq]
    rfl
  · rw [State.confirmRead_eq]
    rfl
  · rfl

/-! #### The transactions -/

theorem State.writePhase1_answered (hi : s.target.eng.state = .idle) (ops : WriteOperands) :
    s.Answered (s.writePhase1 ops) := by
  cases ops with
  | short bytes => exact State.gotoCd_answered hi rfl
  | full addr data =>
    have hopen : s.Frame (s.onTarget fun r =>
        { r with addr := addr, cnt := data.length, j := 0, cd := .wCopy }) :=
      State.onTarget_frame rfl
    refine (hopen.trans (State.copyOut_frame data)).answered (State.gotoCd_answered ?_ rfl)
    exact (State.copyOut_state _ data).trans hi

theorem State.readPhase1_answered (hi : s.target.eng.state = .idle) (ops : ReadOperands) :
    s.Answered (s.readPhase1 ops) := by
  cases ops with
  | short bytes => exact State.gotoCd_answered hi rfl
  | full addr countLess1 trailing =>
    have hopen : s.Frame (s.onTarget (Responder.openReply addr (countOf countLess1))) :=
      State.onTarget_frame rfl
    have hcopy := hopen.trans (State.copyIn_frame (countOf countLess1))
    have hclose := hcopy.trans (State.onTarget_frame (f := Responder.closeReply) rfl)
    refine hclose.answered (State.gotoCd_answered ?_ rfl)
    exact (State.copyIn_state _ _).trans hi

theorem State.runWrite_answered (hi : s.target.eng.state = .idle) (ops : WriteOperands) :
    s.Answered (s.runWrite ops) := by
  by_cases hok : (s.sendAck .awaitCmd).target.eng.result = .ok
  · rw [State.runWrite_of_ack_sent hok]
    exact (State.sendAck_frame hi _).answered (State.writePhase1_answered (State.sendAck_idle _ _) ops)
  · rw [State.runWrite_of_ack_lost hok]
    exact State.sendAck_answered hi

theorem State.runRead_answered (hi : s.target.eng.state = .idle) (ops : ReadOperands) :
    s.Answered (s.runRead ops) := by
  by_cases hok : (s.sendAck .awaitCmd).target.eng.result = .ok
  · rw [State.runRead_of_ack_sent hok]
    exact (State.sendAck_frame hi _).answered (State.readPhase1_answered (State.sendAck_idle _ _) ops)
  · rw [State.runRead_of_ack_lost hok]
    exact State.sendAck_answered hi

/-! #### The commands -/

theorem State.onCommand_answered {i : Instr} {run : State → State}
    (hrun : s.target.eng.state = .idle → s.Answered (run s)) :
    NextMeets s.Answered (s.onCommand i run) := by
  intro t h
  obtain ⟨hi, ⟨-, rfl⟩ | ⟨-, rfl⟩⟩ := State.onCommand_next h
  · exact hrun hi
  · exact State.onReservedCommand_answered hi _

theorem exec_answered {i : Instr} (hd : i.direction = .h2t) : NextMeets s.Answered (exec i s) := by
  cases i with
  | checkStatus trailing => exact State.onCommand_answered State.sendAck_answered
  | writeMemoryRegion ops => exact State.onCommand_answered (State.runWrite_answered · ops)
  | readMemoryRegion ops => exact State.onCommand_answered (State.runRead_answered · ops)
  | readMemoryRegionData trailing =>
    exact State.onCommand_answered fun hi => State.gotoCd_answered hi rfl
  | rspUnexpectedCommand | rspOkWithChecksum _ | rspReadMemoryRegionData _ => cases hd

/-- A command whose transaction makes no copy makes none in phase 2 either. -/
theorem State.onCommand_copySide {i : Instr} {run : State → State}
    (hrun : s.target.cd = .dispatch → (run s).copySide = s.copySide) :
    NextMeets (fun t => t.copySide = s.copySide) (s.onCommand i run) := by
  intro t h
  obtain ⟨-, ⟨hcd, rfl⟩ | ⟨-, rfl⟩⟩ := State.onCommand_next h
  · exact hrun hcd
  · exact s.onReservedCommand_copySide _

theorem exec_copySide_of_not_full {i : Instr} (hd : i.direction = .h2t)
    (hw : ∀ addr data, i ≠ .writeMemoryRegion (.full addr data))
    (hr : ∀ addr n1 trailing, i ≠ .readMemoryRegion (.full addr n1 trailing)) :
    NextMeets (fun t => t.copySide = s.copySide) (exec i s) := by
  match i with
  | .checkStatus _ => exact State.onCommand_copySide fun _ => rfl
  | .writeMemoryRegion (.short bytes) =>
    exact State.onCommand_copySide fun _ => by rw [State.runWrite_short]; rfl
  | .writeMemoryRegion (.full addr data) => exact absurd rfl (hw addr data)
  | .readMemoryRegion (.short bytes) =>
    exact State.onCommand_copySide fun _ => by rw [State.runRead_short]; rfl
  | .readMemoryRegion (.full addr n1 trailing) => exact absurd rfl (hr addr n1 trailing)
  | .readMemoryRegionData _ => exact State.onCommand_copySide fun _ => rfl
  | .rspUnexpectedCommand | .rspOkWithChecksum _ | .rspReadMemoryRegionData _ => cases hd

theorem exec_copySide_of_not_dispatch {i : Instr} (hd : i.direction = .h2t)
    (hcd : s.target.cd ≠ .dispatch) : NextMeets (fun t => t.copySide = s.copySide) (exec i s) := by
  obtain ⟨run, hexec⟩ := exec_command hd s
  rw [hexec]
  exact State.onCommand_copySide fun h => absurd h hcd

end

/-- Settles O36: every command keeps the frame, and only a copy in `DISPATCH` changes more. -/
theorem commandFrame : Obligations.CommandFrame := by
  intro s t i hd hexec
  obtain ⟨⟨⟨r, m, o, rfl⟩, hpackets⟩, hidle, hlistening⟩ := exec_answered hd t hexec
  obtain ⟨hcmd, hlen, hbuf, hrx, hdraws⟩ := Responder.packets_eq_iff.1 hpackets
  exact ⟨rfl, hcmd, hlen, hbuf, hrx, hdraws, hidle, hlistening,
    fun hw hr => State.copySide_eq_iff.1 (exec_copySide_of_not_full hd hw hr _ hexec),
    fun hcd => State.copySide_eq_iff.1 (exec_copySide_of_not_dispatch hd hcd _ hexec)⟩

end Sys2Proof.Machine
end

section
/-! SUPPORT. A step of the Responder by packet (41_dispatch.md rules R141, R142, R147): the packet a
ReceivePacket delivers and the instruction it decodes to; then the statements on such steps. -/

namespace Sys2Proof.Machine

/-! ### The delivered packet -/

/-- What is left of a buffer's first `len` cells from cell `i` on starts with cell `i`. -/
theorem bufTake_drop {n : Nat} (buf : Vector Byte n) {len i : Nat} (hi : i < len) (hlen : len ≤ n) :
    (bufTake buf len).drop i = bufAt buf i :: (bufTake buf len).drop (i + 1) := by
  have hlt : i < (bufTake buf len).length := by rwa [bufTake_length hlen]
  rw [List.drop_eq_getElem_cons hlt]
  simp [bufTake, bufAt, List.getElem?_eq_getElem (show i < buf.toList.length by simp; omega)]

theorem bufTake_eq_cons {n : Nat} (buf : Vector Byte n) {len : Nat} (hpos : 1 ≤ len)
    (hlen : len ≤ n) : bufTake buf len = bufAt buf 0 :: (bufTake buf len).tail := by
  rw [← List.drop_one]
  exact bufTake_drop buf hpos hlen

theorem CdState.listening_iff {cd : CdState} :
    cd.listening = true ↔ cd = .awaitCmd ∨ cd = .wConf ∨ cd = .rConf := by
  cases cd <;> simp [CdState.listening]

section
variable {s : State}

/-- The latched packet is the delivered one. -/
theorem Responder.latch_packet {r : Responder} (hpos : 1 ≤ r.eng.rxLen) (hlen : r.eng.rxLen ≤ 256) :
    r.latch.packet = r.eng.rxPacket :=
  (bufTake_eq_cons r.eng.rxBuf hpos hlen).symm

theorem Responder.packet_of_not_dispatch {r : Responder} (hcd : r.cd ≠ .dispatch) :
    r.packet = r.eng.rxPacket :=
  if_neg hcd

theorem State.receiveCommand_of_awaitCmd (hcd : s.target.cd = .awaitCmd)
    (hok : (receivePacket s.cfg.target s.target.eng).result = .ok) :
    s.receiveCommand = s.onTarget fun r => (r.onEng (receivePacket s.cfg.target)).latch := by
  simp [State.receiveCommand, State.onTarget, hcd, hok]

theorem State.receiveCommand_of_not_latched
    (h : s.target.cd ≠ .awaitCmd ∨ (receivePacket s.cfg.target s.target.eng).result ≠ .ok) :
    s.receiveCommand = s.onTarget (·.onEng (receivePacket s.cfg.target)) := by
  have hno : ¬(s.target.cd = .awaitCmd ∧
      (receivePacket s.cfg.target s.target.eng).result = .ok) := fun ⟨hcd, hok⟩ =>
    h.elim (absurd hcd) (absurd hok)
  simp [State.receiveCommand, State.onTarget, hno]

theorem receivePacket_rxLen_range (p : Params) (e : Engine) :
    1 ≤ (receivePacket p e).rxLen ∧ (receivePacket p e).rxLen ≤ 256 := by
  obtain ⟨-, -, -, -, -, -, -, -, hpos, hlen, -⟩ := receivePacketEnds p e
  exact ⟨hpos, hlen⟩

/-- Byte 0 of a received packet stands in cell 0. -/
theorem receivePacket_headD (p : Params) (e : Engine) :
    (receivePacket p e).rxPacket.headD 0x00#8 = bufAt (receivePacket p e).rxBuf 0 := by
  obtain ⟨hpos, hlen⟩ := receivePacket_rxLen_range p e
  exact congrArg (List.headD · 0x00#8) (bufTake_eq_cons _ hpos hlen)

/-- The packet the CD acts on is the one its ReceivePacket has delivered. -/
theorem State.receiveCommand_packet (hl : s.target.cd.listening = true)
    (hok : (receivePacket s.cfg.target s.target.eng).result = .ok) :
    s.receiveCommand.target.packet = (receivePacket s.cfg.target s.target.eng).rxPacket := by
  by_cases hcd : s.target.cd = .awaitCmd
  · obtain ⟨hpos, hlen⟩ := receivePacket_rxLen_range s.cfg.target s.target.eng
    rw [State.receiveCommand_of_awaitCmd hcd hok]
    exact Responder.latch_packet hpos hlen
  · rw [State.receiveCommand_of_not_latched (.inl hcd)]
    refine Responder.packet_of_not_dispatch fun hdisp => ?_
    rw [show s.target.cd = .dispatch from hdisp] at hl
    cases hl

/-! ### What a packet leads to -/

theorem State.runCommand_of_decode {i : Instr} (h : decode .h2t s.target.packet = .ok i) :
    s.runCommand = exec i s := by
  rw [State.runCommand, h]

theorem State.runCommand_of_reject {e : Reject} (h : decode .h2t s.target.packet = .error e) :
    s.runCommand = .next (s.onReservedCommand (s.target.packet.headD 0x00#8)) := by
  rw [State.runCommand, h]

theorem State.listen_of_ok (hok : (receivePacket s.cfg.target s.target.eng).result = .ok) :
    s.listen = s.receiveCommand.runCommand :=
  if_pos (State.receiveCommand_eng ▸ hok)

theorem State.listen_of_failed (hfail : (receivePacket s.cfg.target s.target.eng).result ≠ .ok) :
    s.listen = .next (s.onTarget (·.onEng (receivePacket s.cfg.target))) := by
  rw [← State.receiveCommand_of_not_latched (.inr hfail)]
  exact if_neg (State.receiveCommand_eng ▸ hfail)

theorem State.targetPacket_of_dispatch (hi : s.target.eng.state = .idle)
    (hcd : s.target.cd = .dispatch) : s.targetPacket = s.runCommand := by
  rw [State.targetPacket, if_neg (not_not.2 hi), hcd]

theorem State.targetPacket_of_listening (hi : s.target.eng.state = .idle)
    (hl : s.target.cd.listening = true) : s.targetPacket = s.listen := by
  rw [State.targetPacket, if_neg (not_not.2 hi)]
  obtain hcd | hcd | hcd := CdState.listening_iff.1 hl <;> rw [hcd]

/-! ### The step -/

/-- The state a Responder's turn by packet starts from, if it is no reset. -/
def State.targetTurnBegun (s : State) : State :=
  { s with turn := .sender, targetReset := s.targetReset.tail }

theorem step_targetPacket (hs : s.schedule = .byPacket) (ht : s.turn = .responder)
    (hr : s.targetReset.headD false = false) : step s = s.targetTurnBegun.targetPacket := by
  have hturn : step s = s.targetTurn State.targetPacket := by simp only [step, hs, ht]
  rw [hturn, State.targetTurn, if_neg (by rw [hr]; nofun)]
  rfl

theorem step_listen (hs : s.schedule = .byPacket) (ht : s.turn = .responder)
    (hr : s.targetReset.headD false = false) (hi : s.target.eng.state = .idle)
    (hl : s.target.cd.listening = true) : step s = s.targetTurnBegun.listen :=
  (step_targetPacket hs ht hr).trans (State.targetPacket_of_listening hi hl)

end

/-- Settles O39: from `DISPATCH` the step runs the latched packet. -/
theorem stepRunsDispatchedPacket : Obligations.StepRunsDispatchedPacket := by
  intro s i hs ht hr hi hcd hdec
  have hrun : s.targetTurnBegun.targetPacket = _ := State.targetPacket_of_dispatch hi hcd
  rw [step_targetPacket hs ht hr, hrun]
  exact State.runCommand_of_decode hdec

/-- Settles O43: the failed ReceivePacket is the whole step. -/
theorem failedReceiveKeepsListening : Obligations.FailedReceiveKeepsListening := by
  intro s hs ht hr hi hl hfail
  rw [step_listen hs ht hr hi hl]
  exact State.listen_of_failed hfail

/-! ### A frame on the Responder's wire -/

section
variable {s : State} {packet vs : List Byte} {rest : List Yield}

/-- The state after the ReceivePacket of `packet`: latched if the CD was in `AWAIT_CMD`, in phase 2
delivered alone. -/
def State.received (packet : List Byte) (s : State) : State :=
  { s with
    target :=
      { s.target with
        cd := if s.target.cd = .awaitCmd then .dispatch else s.target.cd
        cmd := if s.target.cd = .awaitCmd then packet.headD 0x00#8 else s.target.cmd
        cmdLen := if s.target.cd = .awaitCmd then packet.length else s.target.cmdLen
        eng := receivePacket s.cfg.target s.target.eng } }

variable (ha : AnswersReceive s.cfg.target packet vs)
  (hin : s.target.eng.port.inbox = byteYields vs ++ rest)
include ha hin

theorem receivePacket_result_of_answers :
    (receivePacket s.cfg.target s.target.eng).result = .ok := by
  rw [receivePacket_eq_receiveDone ha hin]
  rfl

theorem receivePacket_rxPacket_of_answers :
    (receivePacket s.cfg.target s.target.eng).rxPacket = packet :=
  (receivePacketDelivers s.cfg.target s.target.eng packet vs rest ha hin).1

theorem receivePacket_rxLen_of_answers :
    (receivePacket s.cfg.target s.target.eng).rxLen = packet.length := by
  rw [receivePacket_eq_receiveDone ha hin]
  rfl

theorem receivePacket_bufAt_zero_of_answers :
    bufAt (receivePacket s.cfg.target s.target.eng).rxBuf 0 = packet.headD 0x00#8 := by
  rw [← receivePacket_headD, receivePacket_rxPacket_of_answers ha hin]

theorem State.receiveCommand_of_answers : s.receiveCommand = s.received packet := by
  by_cases hcd : s.target.cd = .awaitCmd
  · rw [State.receiveCommand_of_awaitCmd hcd (receivePacket_result_of_answers ha hin),
      State.received, if_pos hcd, if_pos hcd, if_pos hcd,
      ← receivePacket_bufAt_zero_of_answers ha hin, ← receivePacket_rxLen_of_answers ha hin]
    rfl
  · rw [State.receiveCommand_of_not_latched (.inl hcd), State.received, if_neg hcd, if_neg hcd,
      if_neg hcd]
    rfl

theorem State.received_packet (hl : s.target.cd.listening = true) :
    (s.received packet).target.packet = packet := by
  rw [← State.receiveCommand_of_answers ha hin,
    State.receiveCommand_packet hl (receivePacket_result_of_answers ha hin),
    receivePacket_rxPacket_of_answers ha hin]

/-- A listening CD with a frame on its wire runs the frame's packet. -/
theorem State.listen_of_answers : s.listen = (s.received packet).runCommand := by
  rw [State.listen_of_ok (receivePacket_result_of_answers ha hin),
    State.receiveCommand_of_answers ha hin]

end

/-- Settles O40: the frame's packet is received, then decoded and run. -/
theorem stepFetchesAndRuns : Obligations.StepFetchesAndRuns := by
  intro s i packet vs rest hs ht hr hi hl ha hin hdec
  have hpacket : (s.targetTurnBegun.received packet).target.packet = packet :=
    State.received_packet ha hin hl
  have hlisten : s.targetTurnBegun.listen = _ := State.listen_of_answers ha hin
  rw [step_listen hs ht hr hi hl, hlisten, State.runCommand_of_decode (hpacket.symm ▸ hdec)]
  rfl

/-- Settles O42: the packet is received, and no row of the opcode table runs it. -/
theorem stepOnReservedOpcode : Obligations.StepOnReservedOpcode := by
  intro s packet vs rest opcode hs ht hr hi hcd ha hin hhead hop
  have hl : s.target.cd.listening = true := by rw [hcd]; rfl
  obtain ⟨bytes, rfl⟩ : ∃ bytes, packet = opcode :: bytes := List.head?_eq_some_iff.1 hhead
  obtain ⟨-, hlen, -⟩ := id ha
  have hpacket : (s.targetTurnBegun.received (opcode :: bytes)).target.packet = opcode :: bytes :=
    State.received_packet ha hin hl
  have hdec : decode .h2t (opcode :: bytes) = .error (.reservedCommand opcode) :=
    (decode_h2t (Nat.le_of_succ_le_succ hlen)).trans (decodeCommand_reserved hop bytes)
  have hlisten : s.targetTurnBegun.listen = _ := State.listen_of_answers ha hin
  rw [step_listen hs ht hr hi hl, hlisten, State.runCommand_of_reject (hpacket.symm ▸ hdec),
    State.onReservedCommand_dispatch (if_pos hcd)]
  simp [State.targetTurnBegun, State.received, State.gotoCd, State.onTarget, Responder.goto, hcd]

/-! ### CHECK_STATUS over a channel that lets its answer out -/

section
variable {s : State} {trailing vr vs : List Byte} {rest : List Yield}

/-- In `DISPATCH` and in `W_CONF` CHECK_STATUS is answered with the checksum held in `ACC`. -/
theorem exec_checkStatus_replied (hlen : trailing.length ≤ 255) (hi : s.target.eng.state = .idle)
    (hcd : s.target.cd = .dispatch ∨ s.target.cd = .wConf) (ha : AnswersSend s.cfg.target 5 vs)
    (hin : s.target.eng.port.inbox = byteYields vs ++ rest) :
    exec (.checkStatus trailing) s = .next (s.replied s.target.makeAck.eng vs rest) := by
  have hwf : (Instr.checkStatus trailing).wellFormed = true := decide_eq_true hlen
  obtain hcd | hcd := hcd
  · exact (State.onCommand_dispatch _ hwf hi hcd).trans
      (congrArg _ (State.sendAck_of_answers .awaitCmd ha hin))
  · rw [exec_confirming rfl hwf hi (.inl hcd), State.onReservedCommand_wConf hcd]
    exact congrArg _ (State.confirmWrite_match ha hin)

theorem echoedFrame_length (p : Params) (k len : Nat) :
    (echoedFrame p k len).length = k + p.recvEchoCount + (1 + len) := by
  simp [echoedFrame, Nat.add_comm 1, Nat.add_assoc]

/-- The receiver transmits a byte for every byte that comes in. -/
theorem AnswersReceive.echoedFrame_length {p : Params} {packet vs : List Byte}
    (h : AnswersReceive p packet vs) :
    (echoedFrame p (vs.length - (p.recvEchoCount + 1 + packet.length)) packet.length).length =
      vs.length := by
  obtain ⟨-, -, misses, echoes, rfl, -, -, hechoes⟩ := h
  rw [Machine.echoedFrame_length]
  simp only [List.length_append, List.length_cons]
  omega

/-- A step that receives a CHECK_STATUS packet answers it with that packet's checksum. -/
theorem step_checkStatus_replied (hs : s.schedule = .byPacket) (ht : s.turn = .responder)
    (hr : s.targetReset.headD false = false) (hi : s.target.eng.state = .idle)
    (hcd : s.target.cd = .awaitCmd ∨ s.target.cd = .wConf)
    (har : AnswersReceive s.cfg.target (0x00#8 :: trailing) vr)
    (has : AnswersSend s.cfg.target 5 vs)
    (hin : s.target.eng.port.inbox = byteYields vr ++ (byteYields vs ++ rest)) :
    ∃ t os, step s = .next t ∧ os.length = vr.length ∧
      t.target.cd = .awaitCmd ∧ t.target.eng.result = .ok ∧ t.target.eng.port.inbox = rest ∧
      t.mem = s.mem ∧ t.host = s.host ∧
      t.target.eng.port.trace = s.target.eng.port.trace ++ xfers os vr ++ xfers
        (sentFrame s.cfg.target (vs.length - (s.cfg.target.sendConfirmCount + 6))
          (0x01#8 :: leBytes (csum s.cfg.target.seed (0x00#8 :: trailing)))) vs := by
  obtain ⟨-, hlen, -⟩ := id har
  replace hlen : trailing.length ≤ 255 := Nat.le_of_succ_le_succ hlen
  have hl : s.target.cd.listening = true := by
    obtain hcd | hcd := hcd <;> rw [hcd] <;> rfl
  have hcommand : (if s.target.cd = .awaitCmd then .dispatch else s.target.cd) = CdState.dispatch ∨
      (if s.target.cd = .awaitCmd then .dispatch else s.target.cd) = CdState.wConf := by
    obtain hcd | hcd := hcd <;> simp [hcd]
  have hstep := stepFetchesAndRuns s (.checkStatus trailing) _ vr _ hs ht hr hi hl har hin
    (decode_h2t hlen)
  rw [receivePacket_eq_receiveDone har hin] at hstep
  exact ⟨_, _, hstep.trans (exec_checkStatus_replied hlen rfl hcommand has rfl),
    har.echoedFrame_length, rfl, rfl, rfl, rfl, rfl,
    Responder.makeAck_sendDone_trace s.cfg.target _ vs rest⟩

end

/-- Settles O25: the answer to CHECK_STATUS, from `DISPATCH` and in the step that receives it. -/
theorem checkStatusAckGoesOut : Obligations.CheckStatusAckGoesOut := by
  refine ⟨fun s trailing vs rest hlen hi hcd ha hin => ?_,
    fun s trailing vr vs rest hs ht hr hi hcd => step_checkStatus_replied hs ht hr hi (.inl hcd)⟩
  exact ⟨_, exec_checkStatus_replied hlen hi (.inl hcd) ha hin, rfl, rfl, rfl,
    Responder.makeAck_sendDone_trace s.cfg.target s.target vs rest⟩

/-- Settles O33: the same answer to the confirmation of a write. -/
theorem writeConfirmationReplies : Obligations.WriteConfirmationReplies := by
  refine ⟨fun s trailing vs rest hlen hi hcd ha hin => ?_,
    fun s trailing vr vs rest hs ht hr hi hcd => step_checkStatus_replied hs ht hr hi (.inr hcd)⟩
  exact ⟨_, exec_checkStatus_replied hlen hi (.inr hcd) ha hin, rfl, rfl, rfl, rfl, rfl, rfl,
    Responder.makeAck_sendDone_trace s.cfg.target s.target vs rest⟩

end Sys2Proof.Machine
end

section
/-! SUPPORT. The rows of the CD's transition table that are no copy (41_dispatch.md rule R160): the end
of a link operation by CD state, and each transition as a whole; then the statement. -/

namespace Sys2Proof.Machine

/-! ### The end of a link operation -/

section
variable {r : Responder}

theorem Responder.reactIfIdle_of_idle (h : r.eng.state = .idle) : r.reactIfIdle = r.ended :=
  if_pos h

theorem Responder.reactIfIdle_of_busy (h : r.eng.state ≠ .idle) : r.reactIfIdle = r :=
  if_neg h

theorem Responder.ended_awaitCmd (hcd : r.cd = .awaitCmd) (hok : r.eng.result = .ok) :
    r.ended = r.latch := by
  simp only [Responder.ended, hcd, if_pos hok]

/-- After a failed ReceivePacket the CD listens on. -/
theorem Responder.ended_listening_failed (hl : r.cd.listening = true)
    (hfail : r.eng.result ≠ .ok) : r.ended = r := by
  obtain hcd | hcd | hcd := CdState.listening_iff.1 hl <;>
    simp only [Responder.ended, hcd, if_neg hfail]

theorem Responder.ended_wConf (hcd : r.cd = .wConf) (hok : r.eng.result = .ok) : r.ended =
    (if bufAt r.eng.rxBuf 0 = 0x00#8 then r.makeAck else r.makeUnexpected).goto .wReply := by
  simp only [Responder.ended, hcd, if_pos hok]

theorem Responder.ended_rConf (hcd : r.cd = .rConf) (hok : r.eng.result = .ok) : r.ended =
    (if bufAt r.eng.rxBuf 0 = 0x03#8 then r else r.makeUnexpected).goto .rReply := by
  simp only [Responder.ended, hcd, if_pos hok]

/-- The result of a reply's SendPacket is not examined (41_dispatch.md rule R153). -/
theorem Responder.ended_unexamined (hcd : r.cd = .csAck ∨ r.cd = .wReply ∨ r.cd = .rReply) :
    r.ended = r.goto .awaitCmd := by
  obtain hcd | hcd | hcd := hcd <;> simp only [Responder.ended, hcd]

theorem Responder.ended_wAck (hcd : r.cd = .wAck) :
    r.ended = r.goto (if r.eng.result = .ok then .wDecode else .awaitCmd) := by
  simp only [Responder.ended, hcd]

theorem Responder.ended_rAck (hcd : r.cd = .rAck) :
    r.ended = r.goto (if r.eng.result = .ok then .rDecode else .awaitCmd) := by
  simp only [Responder.ended, hcd]

/-- After a failed SendPacket no transaction goes on. -/
theorem Responder.ended_replying_failed (hl : r.cd.replying = true)
    (hfail : r.eng.result ≠ .ok) : r.ended = r.goto .awaitCmd := by
  cases hcd : r.cd with
  | csAck | wReply | rReply => exact Responder.ended_unexamined (by simp [hcd])
  | wAck => rw [Responder.ended_wAck hcd, if_neg hfail]
  | rAck => rw [Responder.ended_rAck hcd, if_neg hfail]
  | _ => rw [hcd] at hl; cases hl

end

/-! ### The transitions -/

section
variable {s : State}

theorem State.targetLocal_of_listening (hl : s.target.cd.listening = true) :
    s.targetLocal = s.targetListen := by
  obtain hcd | hcd | hcd := CdState.listening_iff.1 hl <;> simp only [State.targetLocal, hcd]

theorem State.targetLocal_of_replying (hl : s.target.cd.replying = true) :
    s.targetLocal = s.targetSend := by
  cases hcd : s.target.cd with
  | csAck | wAck | wReply | rAck | rReply => simp only [State.targetLocal, hcd]
  | _ => rw [hcd] at hl; cases hl

theorem State.targetLocal_of_dispatch (hcd : s.target.cd = .dispatch) :
    s.targetLocal = s.onTarget Responder.decodeCmd := by
  simp only [State.targetLocal, hcd]

theorem State.targetLocal_of_wDecode (hcd : s.target.cd = .wDecode) :
    s.targetLocal = s.onTarget Responder.decodeWriteFields := by
  simp only [State.targetLocal, hcd]

theorem State.targetLocal_of_rDecode (hcd : s.target.cd = .rDecode) :
    s.targetLocal = s.onTarget Responder.decodeReadFields := by
  simp only [State.targetLocal, hcd]

/-- A SendPacket that rejects its length has ended. -/
theorem State.targetSend_of_badLength (hl : s.target.cd.replying = true)
    (hi : s.target.eng.state = .idle) (hb : s.target.eng.badLength s.cfg.target = true) :
    s.targetSend = { s with target := { s.target with
      cd := .awaitCmd, eng := { s.target.eng with result := .err .invalidLength } } } := by
  have hstart : startSend s.cfg.target s.target.eng =
      { s.target.eng with result := .err .invalidLength } := by
    rw [startSend_of_badLength hb, Engine.abort_of_not_receiving _ _ (by rw [hi]; rfl), ← hi]
  rw [State.targetSend, State.onTarget, Responder.onEng, hstart,
    Responder.reactIfIdle_of_idle (by exact hi),
    Responder.ended_replying_failed (by exact hl) (by nofun)]
  rfl

theorem State.targetSend_of_goodLength (hb : s.target.eng.badLength s.cfg.target = false) :
    s.targetSend = { s with target := { s.target with
      eng := { s.target.eng with acc := s.cfg.target.seed, hsCnt := 0, state := .sSearch } } } := by
  rw [State.targetSend, State.onTarget, Responder.onEng, startSend_of_goodLength hb,
    Responder.reactIfIdle_of_busy (by nofun)]

/-- A transition with the LE busy: one transfer, and the CD's reaction if that ended the operation. -/
theorem State.targetTick_of_busy (hb : s.target.eng.state ≠ .idle) : s.targetTick =
    { s with target := (s.target.onEng (Engine.tick s.cfg.target)).reactIfIdle } := by
  rw [State.targetTick, if_neg hb, Responder.onEng, Engine.tick_of_busy hb]
  rfl

end

/-- Settles O48: row by row. -/
theorem cdLocalTransitions : Obligations.CdLocalTransitions := by
  intro s
  refine ⟨State.targetLocal_of_listening, State.targetLocal_of_dispatch, fun hcd => ?_,
    State.targetLocal_of_rDecode, fun hl hi => ?_, ?_⟩
  · rw [State.targetLocal_of_wDecode hcd, State.onTarget, Responder.decodeWriteFields]
    by_cases hshort : s.target.cmdLen < 5
    · rw [if_pos hshort, if_pos hshort]
      rfl
    · have hempty : s.target.cmdLen - 5 = 0 ↔ s.target.cmdLen = 5 := by omega
      simp only [if_neg hshort, hempty]
  · rw [State.targetLocal_of_replying hl]
    by_cases hlen : s.target.eng.txLen < 1 ∨ s.cfg.target.pktMax < s.target.eng.txLen
    · rw [if_pos hlen]
      exact State.targetSend_of_badLength hl hi ((Engine.badLength_iff _ _).2 hlen)
    · rw [if_neg hlen]
      exact State.targetSend_of_goodLength
        (Bool.eq_false_iff.2 (mt (Engine.badLength_iff _ _).1 hlen))
  · rintro hb r rfl
    rw [State.targetTick_of_busy hb, Responder.onEng, Engine.tick_of_busy hb]
    refine ⟨fun hbusy => ?_, fun hidle => ?_⟩
    · rw [Responder.reactIfIdle_of_busy hbusy]
    · rw [Responder.reactIfIdle_of_idle hidle]
      refine ⟨fun hcd hok => ?_, fun hl hfail => ?_, fun hcd hok => ?_, fun hcd hok => ?_,
        fun hcd => ?_, fun hcd hok => ?_, fun hcd hok => ?_, fun hcd hfail => ?_⟩
      · rw [Responder.ended_awaitCmd hcd hok]
        rfl
      · rw [Responder.ended_listening_failed hl hfail]
      · rw [Responder.ended_wConf hcd hok]
        split <;> rfl
      · rw [Responder.ended_rConf hcd hok]
        split <;> rfl
      · rw [Responder.ended_unexamined hcd]
        rfl
      · rw [Responder.ended_wAck hcd, if_pos hok]
        rfl
      · rw [Responder.ended_rAck hcd, if_pos hok]
        rfl
      · rw [Responder.ended_replying_failed (by obtain hcd | hcd := hcd <;> rw [hcd] <;> rfl) hfail]
        rfl

end Sys2Proof.Machine
end

section
/-! SUPPORT. The CD's transition table of 41_dispatch.md rule R160 against the procedures of rules
R141-R154: the transitions that reach the end of a link operation, of a reply, of a copy and of a whole
packet; then the statement. -/

namespace Sys2Proof.Machine

/-- Some number of transitions of the Responder leads from `s` to `t`. -/
def TicksTo (s t : State) : Prop := ∃ n, State.targetTicks n s = t

section
variable {s t u : State}

theorem TicksTo.refl : TicksTo s s := ⟨0, rfl⟩

/-- One transition, then some more. -/
theorem TicksTo.head (h : TicksTo s.targetTick t) : TicksTo s t :=
  h.imp' (· + 1) fun _ => id

theorem State.targetTicks_add (m n : Nat) (s : State) :
    s.targetTicks (m + n) = (s.targetTicks m).targetTicks n := by
  induction m generalizing s with
  | zero => rw [Nat.zero_add]; rfl
  | succ m ih => rw [Nat.succ_add]; exact ih _

theorem TicksTo.trans (h : TicksTo s t) (h' : TicksTo t u) : TicksTo s u := by
  obtain ⟨m, rfl⟩ := h
  obtain ⟨n, rfl⟩ := h'
  exact ⟨m + n, State.targetTicks_add m n s⟩

/-- One transition with the LE idle. -/
theorem TicksTo.transition (hi : s.target.eng.state = .idle) : TicksTo s s.targetLocal :=
  .head (State.targetTick_of_idle hi ▸ .refl)

end

/-! ### A link operation -/

theorem Engine.ticks_of_idle {p : Params} {e : Engine} (h : e.state = .idle) :
    ∀ n, Engine.ticks p n e = e
  | 0 => rfl
  | n + 1 => by
    rw [Engine.ticks, Engine.tick, if_pos h]
    exact Engine.ticks_of_idle h n

section
variable {s : State}

/-- Transfers that bring the LE to the end `f` of its operation are transitions of the Responder, and
the last is the CD's reaction as well. -/
theorem TicksTo.of_engine_ticks (s : State) {f : Engine} (hend : f.state = .idle) :
    ∀ (n : Nat) (r : Responder), Engine.ticks s.cfg.target n r.eng = f →
    TicksTo { s with target := r.reactIfIdle } { s with target := (r.onEng fun _ => f).ended }
  | n, r, hf => by
    by_cases hi : r.eng.state = .idle
    · rw [Responder.reactIfIdle_of_idle hi, ← hf, Engine.ticks_of_idle hi]
      exact .refl
    · rw [Responder.reactIfIdle_of_busy hi]
      cases n with
      | zero => exact absurd hend (hf ▸ hi)
      | succ n =>
        refine .head ?_
        rw [State.targetTick_of_busy hi]
        exact TicksTo.of_engine_ticks s hend n (r.onEng (Engine.tick s.cfg.target)) hf

/-- A link operation started by `start` that the step table carries to the end of `op`. -/
theorem TicksTo.of_reaches {start op : Engine → Engine}
    (h : Reaches s.cfg.target (start s.target.eng) (op s.target.eng))
    (hend : (op s.target.eng).state = .idle) :
    TicksTo { s with target := (s.target.onEng start).reactIfIdle }
      { s with target := (s.target.onEng op).ended } := by
  obtain ⟨n, hn, -⟩ := h
  exact TicksTo.of_engine_ticks s hend n (s.target.onEng start) hn

variable {r : Responder} (hp : s.cfg.target.inRange = true)
include hp

/-- A sending CD with its LE idle goes through a whole SendPacket. -/
theorem TicksTo.sent (hi : s.target.eng.state = .idle) (hl : s.target.cd.replying = true)
    (hr : (s.target.onEng (sendPacket s.cfg.target)).ended = r) : TicksTo s { s with target := r } := by
  subst hr
  refine (TicksTo.transition hi).trans ?_
  rw [State.targetLocal_of_replying hl]
  exact .of_reaches (op := sendPacket _) (startSend_reaches hp) sendPacket_state

/-- A listening CD with its LE idle goes through a whole ReceivePacket. -/
theorem TicksTo.received (hi : s.target.eng.state = .idle) (hl : s.target.cd.listening = true)
    (hr : (s.target.onEng (receivePacket s.cfg.target)).ended = r) :
    TicksTo s { s with target := r } := by
  subst hr
  refine (TicksTo.transition hi).trans ?_
  rw [State.targetLocal_of_listening hl, State.targetListen, State.onTarget,
    ← Responder.reactIfIdle_of_busy (r := s.target.onEng (startReceive s.cfg.target)) nofun]
  exact .of_reaches (op := receivePacket _) (startReceive_reaches hp) receivePacket_state

/-! ### Replies -/

/-- A reply whose send is not examined, from the state it is put in place in. -/
theorem TicksTo.reply {make : Responder → Responder} {cd : CdState}
    (hcd : cd = .csAck ∨ cd = .wReply ∨ cd = .rReply) (hi : (make s.target).eng.state = .idle) :
    TicksTo (s.onTarget fun r => (make r).goto cd) (s.sendReply make cd) :=
  TicksTo.sent (s := s.onTarget fun r => (make r).goto cd) hp hi
    (by obtain rfl | rfl | rfl := hcd <;> rfl) (Responder.ended_unexamined hcd)

/-- The ack of a WRITE_MEMORY_REGION: `W_DECODE` if it gets out. -/
theorem TicksTo.wAck (hi : s.target.eng.state = .idle) :
    TicksTo (s.onTarget fun r => r.makeAck.goto .wAck)
      (s.sendAck (if (s.sendAck .awaitCmd).target.eng.result = .ok then .wDecode else .awaitCmd)) :=
  TicksTo.sent (s := s.onTarget fun r => r.makeAck.goto .wAck) hp hi rfl (Responder.ended_wAck rfl)

/-- The ack of a READ_MEMORY_REGION: `R_DECODE` if it gets out. -/
theorem TicksTo.rAck (hi : s.target.eng.state = .idle) :
    TicksTo (s.onTarget fun r => r.makeAck.goto .rAck)
      (s.sendAck (if (s.sendAck .awaitCmd).target.eng.result = .ok then .rDecode else .awaitCmd)) :=
  TicksTo.sent (s := s.onTarget fun r => r.makeAck.goto .rAck) hp hi rfl (Responder.ended_rAck rfl)

end

/-! ### Copies -/

/-- The rest of a write copy: the transitions of `W_COPY` store the packet's bytes from cell `5 + J`
on. -/
theorem TicksTo.copyOut {len : Nat} : ∀ (n : Nat) (s : State), s.target.eng.state = .idle →
    s.target.cd = .wCopy → s.target.cnt + 5 = len → len ≤ 256 → s.target.j + (n + 1) = s.target.cnt →
    TicksTo s
      ((s.copyOut ((bufTake s.target.eng.rxBuf len).drop (5 + s.target.j))).gotoCd .wConf)
  | n, s, hi, hcd, hcnt, hlen, hj => by
    rw [bufTake_drop _ (show 5 + s.target.j < len by omega) hlen, State.copyOut]
    refine .head ?_
    rw [State.targetTick_wCopy hi hcd (by omega)]
    cases n with
    | zero =>
      rw [if_pos hj, List.drop_of_length_le (by rw [bufTake_length hlen]; omega)]
      exact .refl
    | succ n =>
      rw [if_neg (by omega), ← hcd]
      exact TicksTo.copyOut n _ hi hcd hcnt hlen
        (show s.target.j + 1 + (n + 1) = s.target.cnt by omega)

/-- The rest of a read copy: the transitions of `R_COPY`, the last of which closes the reply. -/
theorem TicksTo.copyIn : ∀ (n : Nat) (s : State), s.target.eng.state = .idle →
    s.target.cd = .rCopy → s.target.j + (n + 1) = s.target.cnt →
    TicksTo s (((s.copyIn (n + 1)).onTarget Responder.closeReply).gotoCd .rConf)
  | n, s, hi, hcd, hj => by
    refine .head ?_
    rw [State.targetTick_rCopy hi hcd (by omega), State.copyIn]
    cases n with
    | zero =>
      rw [if_pos hj]
      exact .refl
    | succ n =>
      rw [if_neg (by omega)]
      exact TicksTo.copyIn n s.copyInByte hi hcd
        (show s.target.j + 1 + (n + 1) = s.target.cnt by omega)

/-! ### From the decoding of the fields on -/

theorem decodeWrite_short {bytes : List Byte} (h : bytes.length < 4) :
    decodeWrite bytes = .short bytes :=
  decodeWrite_encodeWrite (ops := .short bytes) (decide_eq_true h)

theorem decodeRead_short {bytes : List Byte} (h : bytes.length < 5) :
    decodeRead bytes = .short bytes :=
  decodeRead_encodeRead (ops := .short bytes) (decide_eq_true h)

/-- The first bytes of a packet after its opcode are the cells the address is read from. -/
theorem bufTake_tail_eq_address {n : Nat} (buf : Vector Byte n) {len : Nat} (h5 : 5 ≤ len)
    (hlen : len ≤ n) : (bufTake buf len).tail =
      bufAt buf 1 :: bufAt buf 2 :: bufAt buf 3 :: bufAt buf 4 :: (bufTake buf len).drop 5 := by
  rw [← List.drop_one, bufTake_drop buf (by omega) hlen, bufTake_drop buf (by omega) hlen,
    bufTake_drop buf (by omega) hlen, bufTake_drop buf (by omega) hlen]

theorem decodeWrite_cells (e : Engine) {len : Nat} (h5 : 5 ≤ len) (hlen : len ≤ 256) :
    decodeWrite (bufTake e.rxBuf len).tail = .full e.rxAddr ((bufTake e.rxBuf len).drop 5) := by
  rw [bufTake_tail_eq_address e.rxBuf h5 hlen]
  rfl

theorem decodeRead_cells (e : Engine) {len : Nat} (h6 : 6 ≤ len) (hlen : len ≤ 256) :
    decodeRead (bufTake e.rxBuf len).tail =
      .full e.rxAddr (bufAt e.rxBuf 5) ((bufTake e.rxBuf len).drop 6) := by
  rw [bufTake_tail_eq_address e.rxBuf (by omega) hlen, bufTake_drop e.rxBuf h6 hlen]
  rfl

theorem bufTake_tail_length {n : Nat} (buf : Vector Byte n) {len : Nat} (hlen : len ≤ n) :
    (bufTake buf len).tail.length = len - 1 := by
  rw [List.length_tail, bufTake_length hlen]

section
variable {s : State}

/-- `W_DECODE` and the write copy are the procedure's phase 1 of the fields of the latched packet. -/
theorem TicksTo.writePhase1 (hi : s.target.eng.state = .idle) (hcd : s.target.cd = .wDecode)
    (hlen : s.target.cmdLen ≤ 256) : TicksTo s
      (s.writePhase1 (decodeWrite (bufTake s.target.eng.rxBuf s.target.cmdLen).tail)) := by
  refine (TicksTo.transition hi).trans ?_
  rw [State.targetLocal_of_wDecode hcd, State.onTarget, Responder.decodeWriteFields]
  by_cases hshort : s.target.cmdLen < 5
  · rw [if_pos hshort, decodeWrite_short (by rw [bufTake_tail_length _ hlen]; omega)]
    exact .refl
  · rw [if_neg hshort, decodeWrite_cells s.target.eng (by omega) hlen]
    have hdata : ((bufTake s.target.eng.rxBuf s.target.cmdLen).drop 5).length =
        s.target.cmdLen - 5 := by rw [List.length_drop, bufTake_length hlen]
    rw [State.writePhase1, hdata]
    by_cases hempty : s.target.cmdLen - 5 = 0
    · rw [if_pos hempty, List.drop_of_length_le (by rw [bufTake_length hlen]; omega)]
      exact .refl
    · rw [if_neg hempty]
      exact TicksTo.copyOut (s.target.cmdLen - 5 - 1)
        (s.onTarget fun r => { r with
          addr := s.target.eng.rxAddr, cnt := s.target.cmdLen - 5, j := 0, cd := .wCopy })
        hi rfl (show s.target.cmdLen - 5 + 5 = s.target.cmdLen by omega) hlen
        (show 0 + (s.target.cmdLen - 5 - 1 + 1) = s.target.cmdLen - 5 by omega)

/-- `R_DECODE` and the read copy are the procedure's phase 1 of the fields of the latched packet. -/
theorem TicksTo.readPhase1 (hi : s.target.eng.state = .idle) (hcd : s.target.cd = .rDecode)
    (hlen : s.target.cmdLen ≤ 256) : TicksTo s
      (s.readPhase1 (decodeRead (bufTake s.target.eng.rxBuf s.target.cmdLen).tail)) := by
  refine (TicksTo.transition hi).trans ?_
  rw [State.targetLocal_of_rDecode hcd, State.onTarget, Responder.decodeReadFields]
  by_cases hshort : s.target.cmdLen < 6
  · rw [if_pos hshort, decodeRead_short (by rw [bufTake_tail_length _ hlen]; omega)]
    exact .refl
  · rw [if_neg hshort, decodeRead_cells s.target.eng (by omega) hlen]
    exact TicksTo.copyIn (bufAt s.target.eng.rxBuf 5).toNat (s.onTarget
      (Responder.openReply s.target.eng.rxAddr (countOf (bufAt s.target.eng.rxBuf 5)))) hi rfl
      (Nat.zero_add _)

/-! ### From `DISPATCH` on -/

variable (hp : s.cfg.target.inRange = true)
include hp

theorem TicksTo.runWrite (hi : s.target.eng.state = .idle) (hlen : s.target.cmdLen ≤ 256) :
    TicksTo (s.onTarget fun r => r.makeAck.goto .wAck)
      (s.runWrite (decodeWrite (bufTake s.target.eng.rxBuf s.target.cmdLen).tail)) := by
  refine (TicksTo.wAck hp hi).trans ?_
  by_cases hok : (s.sendAck .awaitCmd).target.eng.result = .ok
  · have hbuf : (s.sendAck .wDecode).target.eng.rxBuf = s.target.eng.rxBuf :=
      sendPacket_rxBuf _ (e := s.target.makeAck.eng) hi
    rw [if_pos hok, State.runWrite_of_ack_sent hok, ← hbuf]
    exact TicksTo.writePhase1 (State.sendAck_idle s _) rfl hlen
  · rw [if_neg hok, State.runWrite_of_ack_lost hok]
    exact .refl

theorem TicksTo.runRead (hi : s.target.eng.state = .idle) (hlen : s.target.cmdLen ≤ 256) :
    TicksTo (s.onTarget fun r => r.makeAck.goto .rAck)
      (s.runRead (decodeRead (bufTake s.target.eng.rxBuf s.target.cmdLen).tail)) := by
  refine (TicksTo.rAck hp hi).trans ?_
  by_cases hok : (s.sendAck .awaitCmd).target.eng.result = .ok
  · have hbuf : (s.sendAck .rDecode).target.eng.rxBuf = s.target.eng.rxBuf :=
      sendPacket_rxBuf _ (e := s.target.makeAck.eng) hi
    rw [if_pos hok, State.runRead_of_ack_sent hok, ← hbuf]
    exact TicksTo.readPhase1 (State.sendAck_idle s _) rfl hlen
  · rw [if_neg hok, State.runRead_of_ack_lost hok]
    exact .refl

end

/-! ### A whole packet -/

section
variable {s : State}

theorem State.runCommand_of_decode_dispatch {i : Instr} {run : State → State}
    (hexec : exec i s = s.onCommand i run) (hi : s.target.eng.state = .idle)
    (hcd : s.target.cd = .dispatch) (hdec : decode .h2t s.target.packet = .ok i) :
    s.runCommand = .next (run s) := by
  rw [State.runCommand_of_decode hdec, hexec]
  exact State.onCommand_dispatch run (decode_wellFormed hdec) hi hcd

/-- The transaction that `DISPATCH` runs for the latched packet, by `CMD`. -/
theorem State.runCommand_of_dispatch (hi : s.target.eng.state = .idle)
    (hcd : s.target.cd = .dispatch) (hlen : s.target.cmdLen ≤ 256) {operands : List Byte}
    (hops : operands = (bufTake s.target.eng.rxBuf s.target.cmdLen).tail) :
    s.runCommand = .next
      (if s.target.cmd = 0x00#8 then s.runCheckStatus
      else if s.target.cmd = 0x01#8 then s.runWrite (decodeWrite operands)
      else if s.target.cmd = 0x02#8 then s.runRead (decodeRead operands)
      else s.runUnknown) := by
  have hfit : operands.length ≤ 255 := by
    rw [hops, bufTake_tail_length _ hlen]
    omega
  have hpacket : s.target.packet = s.target.cmd :: operands := hops ▸ if_pos hcd
  have hdec : decode .h2t s.target.packet = decodeCommand s.target.cmd operands :=
    hpacket ▸ decode_h2t hfit
  rw [decodeCommand] at hdec
  by_cases h0 : s.target.cmd = 0x00#8
  · rw [if_pos h0] at hdec ⊢
    exact State.runCommand_of_decode_dispatch rfl hi hcd hdec
  rw [if_neg h0] at hdec ⊢
  by_cases h1 : s.target.cmd = 0x01#8
  · rw [if_pos h1] at hdec ⊢
    exact State.runCommand_of_decode_dispatch rfl hi hcd hdec
  rw [if_neg h1] at hdec ⊢
  by_cases h2 : s.target.cmd = 0x02#8
  · rw [if_pos h2] at hdec ⊢
    exact State.runCommand_of_decode_dispatch rfl hi hcd hdec
  rw [if_neg h2] at hdec ⊢
  by_cases h3 : s.target.cmd = 0x03#8
  · rw [if_pos h3] at hdec
    exact State.runCommand_of_decode_dispatch rfl hi hcd hdec
  · rw [if_neg h3] at hdec
    rw [State.runCommand_of_reject hdec, State.onReservedCommand_dispatch hcd]
    rfl

/-- In phase 2 a packet, of a command or not, is what its byte 0 says. -/
theorem State.runCommand_of_confirming (hi : s.target.eng.state = .idle)
    (hcd : s.target.cd = .wConf ∨ s.target.cd = .rConf) :
    s.runCommand = .next (s.onReservedCommand (s.target.packet.headD 0x00#8)) := by
  cases hdec : decode .h2t s.target.packet with
  | error e => exact State.runCommand_of_reject hdec
  | ok i =>
    rw [State.runCommand_of_decode hdec,
      exec_confirming (decode_direction hdec) (decode_wellFormed hdec) hi hcd, ← encode_of_decode hdec]
    rfl

/-- A packet received in phase 2 is what its byte 0 says. -/
theorem State.listen_of_confirming (hcd : s.target.cd = .wConf ∨ s.target.cd = .rConf)
    (hok : (receivePacket s.cfg.target s.target.eng).result = .ok) : s.listen =
      .next ((s.onTarget (·.onEng (receivePacket s.cfg.target))).onReservedCommand
        (bufAt (receivePacket s.cfg.target s.target.eng).rxBuf 0)) := by
  have hpacket := State.receiveCommand_packet (CdState.listening_iff.2 (.inr hcd)) hok
  have hawait : s.target.cd ≠ .awaitCmd := by obtain h | h := hcd <;> rw [h] <;> nofun
  have hconf : s.receiveCommand.target.cd = .wConf ∨ s.receiveCommand.target.cd = .rConf := by
    rwa [State.receiveCommand_of_not_latched (.inl hawait)]
  rw [State.listen_of_ok hok, State.runCommand_of_confirming State.receiveCommand_idle hconf, hpacket,
    receivePacket_headD, State.receiveCommand_of_not_latched (.inl hawait)]

variable (hp : s.cfg.target.inRange = true)
include hp

/-- From `DISPATCH` the table goes through the transaction that runs. -/
theorem TicksTo.runCommand_of_dispatch (hi : s.target.eng.state = .idle)
    (hcd : s.target.cd = .dispatch) (hlen : s.target.cmdLen ≤ 256) :
    NextMeets (TicksTo s) s.runCommand := by
  rw [State.runCommand_of_dispatch hi hcd hlen rfl, nextMeets_next]
  refine (TicksTo.transition hi).trans ?_
  rw [State.targetLocal_of_dispatch hcd, State.onTarget, Responder.decodeCmd]
  split
  · exact TicksTo.reply hp (.inl rfl) hi
  split
  · exact TicksTo.runWrite hp hi hlen
  split
  · exact TicksTo.runRead hp hi hlen
  · exact .refl

/-- From a packet received in phase 2 the table goes through the reply to its byte 0. -/
theorem TicksTo.ended_confirming (hi : s.target.eng.state = .idle)
    (hok : s.target.eng.result = .ok) (hcd : s.target.cd = .wConf ∨ s.target.cd = .rConf) :
    TicksTo { s with target := s.target.ended }
      (s.onReservedCommand (bufAt s.target.eng.rxBuf 0)) := by
  obtain hcd | hcd := hcd
  · rw [State.onReservedCommand_wConf hcd, Responder.ended_wConf hcd hok]
    exact TicksTo.reply (make := fun r =>
      if bufAt s.target.eng.rxBuf 0 = 0x00#8 then r.makeAck else r.makeUnexpected) hp
      (.inr (.inl rfl)) (by split <;> exact hi)
  · rw [State.onReservedCommand_rConf hcd, Responder.ended_rConf hcd hok]
    exact TicksTo.reply (make := fun r =>
      if bufAt s.target.eng.rxBuf 0 = 0x03#8 then r else r.makeUnexpected) hp
      (.inr (.inr rfl)) (by split <;> exact hi)

/-- From where the CD listens the table goes through the ReceivePacket and what its packet leads to. -/
theorem TicksTo.listen (hi : s.target.eng.state = .idle) (hl : s.target.cd.listening = true) :
    NextMeets (TicksTo s) s.listen := by
  by_cases hok : (receivePacket s.cfg.target s.target.eng).result = .ok
  · by_cases hcd : s.target.cd = .awaitCmd
    · obtain ⟨-, hlen⟩ := receivePacket_rxLen_range s.cfg.target s.target.eng
      rw [State.listen_of_ok hok, State.receiveCommand_of_awaitCmd hcd hok]
      exact fun t ht => (TicksTo.received hp hi hl (Responder.ended_awaitCmd hcd hok)).trans
        (TicksTo.runCommand_of_dispatch (s := s.onTarget fun r =>
          (r.onEng (receivePacket s.cfg.target)).latch) hp receivePacket_state rfl hlen t ht)
    · have hconf := (CdState.listening_iff.1 hl).resolve_left hcd
      rw [State.listen_of_confirming hconf hok, nextMeets_next]
      exact (TicksTo.received hp hi hl rfl).trans (TicksTo.ended_confirming
        (s := s.onTarget (·.onEng (receivePacket s.cfg.target))) hp receivePacket_state hok hconf)
  · rw [State.listen_of_failed hok, nextMeets_next]
    exact TicksTo.received hp hi hl (Responder.ended_listening_failed hl hok)

/-- The Responder's next packet, by the LE and the CD's state. -/
theorem TicksTo.targetPacket (hlen : s.target.cmdLen ≤ 256) :
    NextMeets (TicksTo s) s.targetPacket := by
  by_cases hi : s.target.eng.state = .idle
  · cases hcd : s.target.cd with
    | awaitCmd | wConf | rConf =>
      have hl : s.target.cd.listening = true := CdState.listening_iff.2 (by simp [hcd])
      rw [State.targetPacket_of_listening hi hl]
      exact TicksTo.listen hp hi hl
    | dispatch =>
      rw [State.targetPacket_of_dispatch hi hcd]
      exact TicksTo.runCommand_of_dispatch hp hi hcd hlen
    | _ =>
      rw [State.targetPacket, if_neg (not_not.2 hi), hcd]
      exact (nextMeets_next _ _).2 (.transition hi)
  · rw [State.targetPacket, if_pos hi]
    exact (nextMeets_next _ _).2 (.head .refl)

end

/-- Settles O50: a packet that is received or latched is followed through the table to the end of its
transaction. -/
theorem cdTableAgreesWithProcedures : Obligations.CdTableAgreesWithProcedures := by
  intro s t hinv
  have htarget := (State.inv_iff.1 hinv).1
  exact TicksTo.targetPacket htarget.params htarget.target.cmdLen_le t

end Sys2Proof.Machine
end

section
/-! SUPPORT. An exchange of the Sender by packet (42_orchestrator.md rules R181-R185): what a delivered
reply leads to, the exchange as its SendPacket and its ReceivePacket, and the step of a Sender's turn;
then the statements on such steps. -/

namespace Sys2Proof.Machine

section
variable {s : State} {i : Instr}

/-! ### A delivered reply -/

/-- A response that the XO awaits goes upstream as its packet. -/
theorem State.onReply_of_recv (hwf : i.wellFormed = true) (hi : s.host.eng.state = .idle)
    (hx : s.host.xo = .recv) : s.onReply i = .next (s.onHost (Sender.respondOk (encode i))) := by
  rw [State.onReply, if_neg (by simp [hwf]), if_neg (not_not.2 hi), hx]

theorem State.runReply_of_decode (h : decode .t2h s.host.eng.rxPacket = .ok i) :
    s.runReply = exec i s := by
  rw [State.runReply, h]

theorem State.runReply_of_reject {e : Reject} (h : decode .t2h s.host.eng.rxPacket = .error e) :
    s.runReply = .next (s.onHost (Sender.respondOk s.host.eng.rxPacket)) := by
  rw [State.runReply, h]

/-- Of a response's format or not, a reply that the XO awaits goes upstream as its bytes. -/
theorem State.runReply_of_recv (hi : s.host.eng.state = .idle) (hx : s.host.xo = .recv) :
    s.runReply = .next (s.onHost (Sender.respondOk s.host.eng.rxPacket)) := by
  cases hdec : decode .t2h s.host.eng.rxPacket with
  | error e => exact State.runReply_of_reject hdec
  | ok i =>
    rw [State.runReply_of_decode hdec, exec_response s (decode_direction hdec),
      State.onReply_of_recv (decode_wellFormed hdec) hi hx, encode_of_decode hdec]

/-! ### The end of a link operation -/

theorem Sender.afterSend_of_ok {h : Sender} (hok : h.eng.result = .ok) :
    h.afterSend = { h with txCsum := h.eng.acc, xo := .settle } := by
  rw [Sender.afterSend, hok]

theorem Sender.afterReceive_of_ok {h : Sender} (hok : h.eng.result = .ok) :
    h.afterReceive = h.respondOk h.eng.rxPacket := by
  rw [Sender.afterReceive, hok]

theorem Sender.afterReceive_of_err {h : Sender} {k : ErrKind} (herr : h.eng.result = .err k) :
    h.afterReceive = h.respondErr k := by
  rw [Sender.afterReceive, herr]

/-! ### The exchange -/

/-- A ReceivePacket with a frame on the wire delivers the frame's packet. -/
theorem receivePacket_of_answers {p : Params} {e : Engine} {packet vs : List Byte}
    {rest : List Yield} (ha : AnswersReceive p packet vs)
    (hin : e.port.inbox = byteYields vs ++ rest) :
    (receivePacket p e).rxPacket = packet ∧ (receivePacket p e).result = .ok :=
  ⟨(receivePacketDelivers p e packet vs rest ha hin).1, by
    rw [receivePacket_eq_receiveDone ha hin]
    rfl⟩

theorem State.awaitReply_of_ok (hok : (receivePacket s.cfg.host s.host.eng).result = .ok) :
    s.awaitReply = s.receiveReply.runReply := by
  have hok' : s.receiveReply.host.eng.result = .ok := hok
  rw [State.awaitReply, hok']

/-- From `SETTLE` on the exchange is its ReceivePacket and what the XO makes of the end of it. -/
theorem State.awaitReply_eq (s : State) :
    s.awaitReply = .next (s.receiveReply.onHost Sender.afterReceive) := by
  rw [State.onHost]
  cases hr : s.receiveReply.host.eng.result with
  | ok =>
    rw [State.awaitReply_of_ok hr, State.runReply_of_recv receivePacket_state rfl,
      Sender.afterReceive_of_ok hr]
    rfl
  | err k =>
    rw [State.awaitReply, hr, Sender.afterReceive_of_err hr]
    rfl

theorem State.exchange_of_sent (hok : (sendPacket s.cfg.host s.host.eng).result = .ok) :
    s.exchange = s.sendRequest.awaitReply :=
  if_pos (Sender.afterSend_result.trans hok)

theorem State.exchange_of_not_sent (hfail : (sendPacket s.cfg.host s.host.eng).result ≠ .ok) :
    s.exchange = .next s.sendRequest :=
  if_neg fun h => hfail (Sender.afterSend_result.symm.trans h)

/-! ### The Sender's next packet -/

theorem State.hostPacket_of_no_request (hi : s.host.eng.state = .idle) (hx : s.host.xo = .idle)
    (hreq : s.requests = []) : s.hostPacket = .next s := by
  rw [State.hostPacket, if_neg (not_not.2 hi), hx]
  exact if_pos hreq

/-- The state in which the XO has taken the request `b`, `rs` being those after it. -/
def State.requestTaken (b : List Byte) (rs : List (List Byte)) (s : State) : State :=
  { s with requests := rs, host := s.host.begin s.cfg.host b }

@[simp] theorem Sender.begin_state (p : Params) (b : List Byte) (h : Sender) :
    (h.begin p b).eng.state = h.eng.state := by
  unfold Sender.begin
  split <;> rfl

theorem State.acceptRequest_of_cons {b : List Byte} {rs : List (List Byte)}
    (hreq : s.requests = b :: rs) : s.acceptRequest = s.requestTaken b rs := by
  rw [State.acceptRequest, hreq]
  rfl

theorem State.hostPacket_of_request {b : List Byte} {rs : List (List Byte)}
    (hi : s.host.eng.state = .idle) (hx : s.host.xo = .idle) (hreq : s.requests = b :: rs) :
    s.hostPacket = (s.requestTaken b rs).exchange := by
  rw [State.hostPacket, if_neg (not_not.2 hi), hx, ← State.acceptRequest_of_cons hreq]
  exact if_neg (by rw [hreq]; nofun)

theorem State.hostPacket_of_send (hi : s.host.eng.state = .idle) (hx : s.host.xo = .send) :
    s.hostPacket = s.exchange := by
  rw [State.hostPacket, if_neg (not_not.2 hi), hx]

theorem State.hostPacket_of_awaiting (hi : s.host.eng.state = .idle)
    (hx : s.host.xo = .settle ∨ s.host.xo = .recv) : s.hostPacket = s.awaitReply := by
  rw [State.hostPacket, if_neg (not_not.2 hi)]
  obtain hx | hx := hx <;> rw [hx]

/-! ### The XO's transitions -/

theorem State.hostLocal_of_idle (hx : s.host.xo = .idle) : s.hostLocal = s.acceptRequest := by
  rw [State.hostLocal, hx]

theorem State.hostLocal_of_send (hx : s.host.xo = .send) :
    s.hostLocal = s.onHost fun h => (h.onEng (startSend s.cfg.host)).reactIfIdle := by
  rw [State.hostLocal, hx]

theorem State.hostLocal_of_settle (hx : s.host.xo = .settle) :
    s.hostLocal = s.onHost (·.goto .recv) := by
  rw [State.hostLocal, hx]

theorem State.hostLocal_of_recv (hx : s.host.xo = .recv) :
    s.hostLocal = s.onHost (·.onEng (startReceive s.cfg.host)) := by
  rw [State.hostLocal, hx]

theorem State.hostTick_of_idle (hi : s.host.eng.state = .idle) : s.hostTick = s.hostLocal :=
  if_pos hi

theorem State.hostTick_of_no_request (hi : s.host.eng.state = .idle) (hx : s.host.xo = .idle)
    (hreq : s.requests = []) : s.hostTick = s := by
  rw [State.hostTick_of_idle hi, State.hostLocal_of_idle hx, State.acceptRequest, hreq]

/-! ### The step -/

/-- The state a Sender's turn starts from, if it is no reset. -/
def State.hostTurnBegun (s : State) : State :=
  { s with turn := .responder, hostReset := s.hostReset.tail }

theorem State.hostTurn_of_no_reset (act : State → Host.Outcome State Fault Refusal)
    (hr : s.hostReset.headD false = false) : s.hostTurn act = act s.hostTurnBegun := by
  rw [State.hostTurn, if_neg (by rw [hr]; nofun)]
  rfl

theorem step_hostPacket (hs : s.schedule = .byPacket) (ht : s.turn = .sender)
    (hr : s.hostReset.headD false = false) : step s = s.hostTurnBegun.hostPacket := by
  have hturn : step s = s.hostTurn State.hostPacket := by simp only [step, hs, ht]
  rw [hturn, State.hostTurn_of_no_reset _ hr]

/-- A Sender's turn by packet with a request waiting is the exchange of that request. -/
theorem step_exchange {b : List Byte} {rs : List (List Byte)} (hs : s.schedule = .byPacket)
    (ht : s.turn = .sender) (hr : s.hostReset.headD false = false)
    (hi : s.host.eng.state = .idle) (hx : s.host.xo = .idle) (hreq : s.requests = b :: rs) :
    step s = (s.hostTurnBegun.requestTaken b rs).exchange :=
  (step_hostPacket hs ht hr).trans (State.hostPacket_of_request hi hx hreq)

end

/-- Settles O38: each response is a reply that the XO awaits. -/
theorem responsesGoUpstream : Obligations.ResponsesGoUpstream := by
  rintro s hi hx up rfl
  have hrun (i : Instr) (hwf : i.wellFormed = true) : s.onReply i = _ :=
    State.onReply_of_recv hwf hi hx
  exact ⟨hrun .rspUnexpectedCommand rfl, fun c => hrun (.rspOkWithChecksum c) rfl,
    fun data hpos hlen => hrun (.rspReadMemoryRegionData data)
      (by simp [Instr.wellFormed, hpos, hlen])⟩

/-- Settles O41: the reply is received, then decoded and run. -/
theorem stepReceivesAndRunsReply : Obligations.StepReceivesAndRunsReply := by
  intro s i reply vs rest hs ht hr hi hx ha hin hdec
  obtain ⟨hpacket, hok⟩ := receivePacket_of_answers ha hin
  calc step s
    _ = s.hostTurnBegun.hostPacket := step_hostPacket hs ht hr
    _ = s.hostTurnBegun.awaitReply := State.hostPacket_of_awaiting hi hx
    _ = s.hostTurnBegun.receiveReply.runReply := State.awaitReply_of_ok hok
    _ = exec i s.hostTurnBegun.receiveReply := State.runReply_of_decode (hpacket.symm ▸ hdec)

/-- Settles O47: without a request neither an exchange nor a transition starts. -/
theorem idleSenderWaits : Obligations.IdleSenderWaits := by
  intro s hs ht hr hi hx hreq
  obtain h | h := step_of_sender (by obtain h | h := hs <;> rw [h] <;> nofun) ht <;>
    rw [h, State.hostTurn_of_no_reset _ hr]
  · exact State.hostPacket_of_no_request hi hx hreq
  · exact congrArg Host.Outcome.next (State.hostTick_of_no_request hi hx hreq)

/-! ### A request of an illegal length -/

/-- A request that SendPacket rejects changes `TX_LEN` alone: there is nothing to stage, or it does not
fit. -/
theorem Sender.begin_of_length_outside {p : Params} (hp : p.inRange = true) (h : Sender)
    {b : List Byte} (hb : b.length = 0 ∨ 256 < b.length) :
    h.begin p b = { h with xo := .send, eng := { h.eng with txLen := b.length } } := by
  rw [Sender.begin, Params.pktMax_eq hp]
  obtain hb | hb := hb
  · obtain rfl := List.length_eq_zero_iff.1 hb
    rfl
  · rw [if_neg (Nat.not_le.2 hb)]

/-- An exchange of a request of an illegal length is the error response alone. -/
theorem State.exchange_of_length_outside {s : State} (hp : s.cfg.host.inRange = true)
    (hi : s.host.eng.state = .idle) {b : List Byte} (hb : b.length = 0 ∨ 256 < b.length)
    (rs : List (List Byte)) : (s.requestTaken b rs).exchange = .next { s with
      requests := rs
      host := Sender.respondErr .invalidLength { s.host with
        eng := { s.host.eng with txLen := b.length, result := .err .invalidLength } } } := by
  have hsend : sendPacket s.cfg.host { s.host.eng with txLen := b.length } =
      { s.host.eng with txLen := b.length, result := .err .invalidLength } :=
    sendPacket_of_length_outside hp hi (hb.imp_left Nat.lt_one_iff.2)
  rw [State.requestTaken, Sender.begin_of_length_outside hp _ hb,
    State.exchange_of_not_sent (hsend ▸ nofun), State.sendRequest, State.onHost, Sender.onEng, hsend]
  rfl

/-- Settles O45: SendPacket rejects the length, and the XO reports that. -/
theorem exchangeRejectsLength : Obligations.ExchangeRejectsLength := by
  intro s b rs hs ht hr hi hx hreq hp hb
  have hhost : s.cfg.host.inRange = true := (Bool.and_eq_true_iff.1 hp).2
  exact (step_exchange hs ht hr hi hx hreq).trans
    (State.exchange_of_length_outside (s := s.hostTurnBegun) hhost hi hb rs)

/-! ### A request and its reply -/

theorem Sender.begin_of_fits {p : Params} {b : List Byte} (hb : b.length ≤ p.pktMax) (h : Sender) :
    h.begin p b = { h with xo := .send, eng := h.eng.stage b } := by
  rw [Sender.begin, if_pos hb]

/-- The state in `SETTLE` after the SendPacket of the request `b`, to which `vs` came back, `rest` being
left of the script and `rs` of the requests. -/
def State.requestSent (b vs : List Byte) (rest : List Yield) (rs : List (List Byte)) (s : State) :
    State :=
  { s with
    requests := rs
    host :=
      { s.host with
        xo := .settle
        txCsum := csum s.cfg.host.seed b
        eng := sendDone s.cfg.host (s.host.eng.stage b) vs rest } }

/-- The state after the ReceivePacket of `reply`, to which `vr` came back, and the response upstream. -/
def State.replyPassed (reply vr : List Byte) (rest : List Yield) (s : State) : State :=
  s.onHost fun h =>
    (h.onEng fun e => receiveDone s.cfg.host e reply vr rest).respondOk reply

section
variable {s : State} {b vs reply vr : List Byte} {rest : List Yield}

theorem State.sendRequest_of_answers (hb : b.length ≤ 256)
    (ha : AnswersSend s.cfg.host b.length vs)
    (hin : s.host.eng.port.inbox = byteYields vs ++ rest) (rs : List (List Byte)) :
    (s.requestTaken b rs).sendRequest = s.requestSent b vs rest rs := by
  obtain ⟨-, hfit, -⟩ := id ha
  have hb' : b.length ≤ 257 := Nat.le_succ_of_le hb
  have hsend : sendPacket s.cfg.host (s.host.eng.stage b) =
      sendDone s.cfg.host (s.host.eng.stage b) vs rest := sendPacket_eq_sendDone hb' ha hin
  rw [State.requestTaken, Sender.begin_of_fits hfit, State.sendRequest, State.onHost, Sender.onEng,
    hsend, Sender.afterSend_of_ok rfl, State.requestSent, sendDone, Engine.stage_txPacket hb']

/-- The transfers of a request that the channel takes are its frame's. -/
theorem State.requestSent_trace (hb : b.length ≤ 256) (rest : List Yield) (rs : List (List Byte)) :
    (s.requestSent b vs rest rs).host.eng.port.trace = s.host.eng.port.trace ++ xfers
      (sentFrame s.cfg.host (vs.length - (s.cfg.host.sendConfirmCount + 1 + b.length)) b) vs := by
  rw [State.requestSent, sendDone, Engine.stage_txPacket (Nat.le_succ_of_le hb)]
  rfl

theorem State.awaitReply_of_answers (ha : AnswersReceive s.cfg.host reply vr)
    (hin : s.host.eng.port.inbox = byteYields vr ++ rest) :
    s.awaitReply = .next (s.replyPassed reply vr rest) := by
  obtain ⟨hpacket, hok⟩ := receivePacket_of_answers ha hin
  have hreply : s.receiveReply.host.eng.rxPacket = reply := hpacket
  rw [State.awaitReply_of_ok hok, State.runReply_of_recv receivePacket_state rfl, hreply]
  exact congrArg (fun e => Host.Outcome.next (s.onHost fun h => (h.onEng fun _ => e).respondOk reply))
    (receivePacket_eq_receiveDone ha hin)

/-- An exchange over a channel that takes the request and brings a reply. -/
theorem State.exchange_of_answers (hb : b.length ≤ 256) (ha : AnswersSend s.cfg.host b.length vs)
    (hr : AnswersReceive s.cfg.host reply vr)
    (hin : s.host.eng.port.inbox = byteYields vs ++ (byteYields vr ++ rest))
    (rs : List (List Byte)) : (s.requestTaken b rs).exchange =
      .next ((s.requestSent b vs (byteYields vr ++ rest) rs).replyPassed reply vr rest) := by
  have hsent := State.sendRequest_of_answers hb ha hin rs
  have hok : (s.requestTaken b rs).sendRequest.host.eng.result = .ok := by
    rw [hsent]
    rfl
  rw [State.exchange, if_pos hok, hsent]
  exact State.awaitReply_of_answers hr rfl

end

/-- Settles O44: the request goes out and the reply, whatever its opcode, comes in and goes upstream. -/
theorem exchangeSucceeds : Obligations.ExchangeSucceeds := by
  intro s b reply vs vr rs rest hs ht hr hi hx hreq _ hb hsend hreceive hin
  obtain ⟨-, hreply, -⟩ := id hreceive
  have hpacket : (s.host.eng.stage b).txPacket = b := Engine.stage_txPacket (Nat.le_succ_of_le hb)
  refine ⟨_, (step_exchange hs ht hr hi hx hreq).trans
    (State.exchange_of_answers (s := s.hostTurnBegun) hb hsend hreceive hin rs), rfl, rfl, rfl,
    bufTake_bufPutAll _ hreply, hpacket, rfl, ?_⟩
  exact congrArg (· ++ _ ++ _) (State.requestSent_trace hb _ rs)

end Sys2Proof.Machine
end

section
/-! SUPPORT. The XO's transitions against performExchange (42_orchestrator.md rule R181): the transitions
that reach the end of a link operation, of the reply, of the exchange; then the statement. -/

namespace Sys2Proof.Machine

/-! ### Transitions of the Sender -/

/-- Some number of transitions of the Sender leads from `s` to `t`. -/
abbrev HostTicksTo : State → State → Prop := Relation.ReflTransGen fun s t => s.hostTick = t

theorem HostTicksTo.exists_hostTicks {s t : State} (h : HostTicksTo s t) :
    ∃ n, State.hostTicks n s = t := by
  induction h using Relation.ReflTransGen.head_induction_on with
  | refl => exact ⟨0, rfl⟩
  | head htick _ ih =>
    obtain ⟨n, hn⟩ := ih
    exact ⟨n + 1, by rw [State.hostTicks, htick, hn]⟩

section
variable {s t : State}

/-- One transition, then some more. -/
theorem HostTicksTo.head (h : HostTicksTo s.hostTick t) : HostTicksTo s t :=
  Relation.ReflTransGen.head rfl h

/-- A transition with the LE idle, then some more. -/
theorem HostTicksTo.head_idle (hi : s.host.eng.state = .idle) (h : HostTicksTo s.hostLocal t) :
    HostTicksTo s t :=
  .head (State.hostTick_of_idle hi ▸ h)

/-- A transfer is a tick of the LE with the XO's reaction. -/
theorem State.hostTick_of_busy (hb : s.host.eng.state ≠ .idle) :
    s.hostTick = { s with host := (s.host.onEng (Engine.tick s.cfg.host)).reactIfIdle } := by
  rw [State.hostTick, if_neg hb, State.hostYield, State.onHost, Sender.onEng, Sender.onEng,
    Engine.tick_of_busy hb]
  rfl

/-! ### The XO's reaction -/

theorem Sender.reactIfIdle_of_busy {h : Sender} (hb : h.eng.state ≠ .idle) : h.reactIfIdle = h :=
  if_neg hb

theorem Sender.reactIfIdle_of_send {h : Sender} (hi : h.eng.state = .idle) (hx : h.xo = .send) :
    h.reactIfIdle = h.afterSend := by
  rw [Sender.reactIfIdle, if_pos hi, hx]

theorem Sender.reactIfIdle_of_recv {h : Sender} (hi : h.eng.state = .idle) (hx : h.xo = .recv) :
    h.reactIfIdle = h.afterReceive := by
  rw [Sender.reactIfIdle, if_pos hi, hx]

/-! ### A link operation -/

/-- Transfers that bring the LE to the end `f` of its operation are transitions of the Sender, and the
last is the XO's reaction as well. -/
theorem HostTicksTo.of_engine_ticks (s : State) {f : Engine} (hend : f.state = .idle) :
    ∀ (n : Nat) (h : Sender), Engine.ticks s.cfg.host n h.eng = f →
    HostTicksTo { s with host := h.reactIfIdle } { s with host := (h.onEng fun _ => f).reactIfIdle }
  | n, h, hf => by
    by_cases hi : h.eng.state = .idle
    · rw [← hf, Engine.ticks_of_idle hi]
      exact .refl
    · rw [Sender.reactIfIdle_of_busy hi]
      cases n with
      | zero => exact absurd hend (hf ▸ hi)
      | succ n =>
        refine .head ?_
        rw [State.hostTick_of_busy hi]
        exact HostTicksTo.of_engine_ticks s hend n (h.onEng (Engine.tick s.cfg.host)) hf

/-- A link operation started by `start` that the step table carries to the end of `op`. -/
theorem HostTicksTo.of_reaches {start op : Engine → Engine}
    (h : Reaches s.cfg.host (start s.host.eng) (op s.host.eng))
    (hend : (op s.host.eng).state = .idle) :
    HostTicksTo { s with host := (s.host.onEng start).reactIfIdle }
      { s with host := (s.host.onEng op).reactIfIdle } := by
  obtain ⟨n, hn, -⟩ := h
  exact HostTicksTo.of_engine_ticks s hend n (s.host.onEng start) hn

variable (hp : s.cfg.host.inRange = true) (hi : s.host.eng.state = .idle)
include hp hi

/-- From `SEND` the XO goes through the exchange's SendPacket. -/
theorem HostTicksTo.sendRequest (hx : s.host.xo = .send) : HostTicksTo s s.sendRequest := by
  have hsent : (s.host.onEng (sendPacket s.cfg.host)).reactIfIdle =
      (s.host.onEng (sendPacket s.cfg.host)).afterSend :=
    Sender.reactIfIdle_of_send sendPacket_state hx
  refine .head_idle hi ?_
  rw [State.hostLocal_of_send hx, State.sendRequest, State.onHost, State.onHost, ← hsent]
  exact .of_reaches (op := sendPacket _) (startSend_reaches hp) sendPacket_state

/-- From `RECV` the XO goes through the exchange's ReceivePacket to the response upstream. -/
theorem HostTicksTo.receiveReply (hx : s.host.xo = .recv) :
    HostTicksTo s (s.receiveReply.onHost Sender.afterReceive) := by
  have hstarted : (s.host.onEng (startReceive s.cfg.host)).reactIfIdle =
      s.host.onEng (startReceive s.cfg.host) := Sender.reactIfIdle_of_busy nofun
  have hgoto : s.host.goto .recv = s.host := by
    rw [Sender.goto, ← hx]
  have hreceived : (s.host.onEng (receivePacket s.cfg.host)).reactIfIdle =
      (s.host.onEng (receivePacket s.cfg.host)).afterReceive :=
    Sender.reactIfIdle_of_recv receivePacket_state hx
  refine .head_idle hi ?_
  rw [State.hostLocal_of_recv hx, State.receiveReply, State.onHost, State.onHost, State.onHost, hgoto,
    ← hstarted, ← hreceived]
  exact .of_reaches (op := receivePacket _) (startReceive_reaches hp) receivePacket_state

/-! ### An exchange -/

/-- From `SETTLE` or `RECV` the transitions end where the procedure ends. -/
theorem HostTicksTo.awaitReply (hx : s.host.xo = .settle ∨ s.host.xo = .recv) :
    NextMeets (HostTicksTo s) s.awaitReply := by
  rw [State.awaitReply_eq, nextMeets_next]
  obtain hx | hx := hx
  · refine .head_idle hi ?_
    rw [State.hostLocal_of_settle hx]
    exact HostTicksTo.receiveReply (s := s.onHost (·.goto .recv)) hp hi rfl
  · exact HostTicksTo.receiveReply hp hi hx

/-- From `SEND` the transitions end where the procedure ends. -/
theorem HostTicksTo.exchange (hx : s.host.xo = .send) : NextMeets (HostTicksTo s) s.exchange := by
  have hsend := HostTicksTo.sendRequest hp hi hx
  by_cases hok : (sendPacket s.cfg.host s.host.eng).result = .ok
  · have hsettle : s.sendRequest.host.xo = .settle :=
      congrArg Sender.xo (Sender.afterSend_of_ok (h := s.host.onEng (sendPacket s.cfg.host)) hok)
    have hidle : s.sendRequest.host.eng.state = .idle := Sender.afterSend_state.trans sendPacket_state
    rw [State.exchange_of_sent hok]
    exact fun t ht => hsend.trans
      (HostTicksTo.awaitReply (s := s.sendRequest) hp hidle (.inl hsettle) t ht)
  · rw [State.exchange_of_not_sent hok, nextMeets_next]
    exact hsend

end

/-- The Sender's next packet, by the LE and the XO's state. -/
theorem HostTicksTo.hostPacket {s : State} (hp : s.cfg.host.inRange = true) :
    NextMeets (HostTicksTo s) s.hostPacket := by
  by_cases hi : s.host.eng.state = .idle
  · cases hx : s.host.xo with
    | idle =>
      cases hreq : s.requests with
      | nil =>
        rw [State.hostPacket_of_no_request hi hx hreq]
        exact (nextMeets_next _ _).2 .refl
      | cons b rs =>
        have hidle := (s.host.begin_state s.cfg.host b).trans hi
        rw [State.hostPacket_of_request hi hx hreq]
        refine fun t ht => .head_idle hi ?_
        rw [State.hostLocal_of_idle hx, State.acceptRequest_of_cons hreq]
        exact HostTicksTo.exchange (s := s.requestTaken b rs) hp hidle rfl t ht
    | send =>
      rw [State.hostPacket_of_send hi hx]
      exact HostTicksTo.exchange hp hi hx
    | settle | recv =>
      rw [State.hostPacket_of_awaiting hi (by simp [hx])]
      exact HostTicksTo.awaitReply hp hi (by simp [hx])
  · rw [State.hostPacket, if_pos hi, nextMeets_next]
    exact .head .refl

/-- Settles O51: the exchange is followed through the XO's transitions from wherever it stands to its
end. -/
theorem xoTableAgreesWithProcedure : Obligations.XoTableAgreesWithProcedure :=
  fun _ t hinv hnext =>
    (HostTicksTo.hostPacket (State.inv_iff.1 hinv).2.params t hnext).exists_hostTicks

end Sys2Proof.Machine
end

section
/-! SUPPORT. How an exchange of the Sender ends (42_orchestrator.md rules R181, R183-R185,
60_exceptions.md rules R207, R209): what its two link operations add to the log, and the response each
end of them leads to; then the statement. -/

namespace Sys2Proof.Machine

/-! ### What a link operation logs -/

/-- From `e` to `f` the port made transfers and nothing else. -/
def Engine.TransfersTo (e f : Engine) : Prop :=
  ∃ evs, f.port.trace = e.port.trace ++ evs ∧ ∀ ev ∈ evs, ev.isByteXfer ∨ ev.isTimeout

theorem Engine.TransfersTo.trans {e f g : Engine} (h : e.TransfersTo f) (h' : f.TransfersTo g) :
    e.TransfersTo g := by
  obtain ⟨evs, hf, hevs⟩ := h
  obtain ⟨evs', hg, hevs'⟩ := h'
  exact ⟨evs ++ evs', by rw [hg, hf, List.append_assoc],
    List.forall_mem_append.2 ⟨hevs, hevs'⟩⟩

/-- However a link operation ends, it made transfers alone. -/
theorem EndsAs.transfers {attempts bound : Nat} {evs : List PortEvent} {r : Result}
    (h : EndsAs attempts bound evs r) : ∀ ev ∈ evs, ev.isByteXfer ∨ ev.isTimeout := by
  obtain ⟨-, ⟨-, hall⟩ | ⟨-, front, last, rfl, hlast, hfront⟩ | ⟨-, -, hall⟩ | ⟨-, rfl⟩⟩ := h
  · exact fun ev hev => .inl (hall ev hev)
  · exact List.forall_mem_append.2 ⟨fun ev hev => .inl (hfront ev hev),
      List.forall_mem_singleton.2 (.inr hlast)⟩
  · exact fun ev hev => .inl (hall ev hev)
  · nofun

theorem sendPacket_transfersTo (p : Params) (e : Engine) : e.TransfersTo (sendPacket p e) := by
  obtain ⟨evs, htrace, -, hends, -⟩ := sendPacketEnds p e
  exact ⟨evs, htrace, hends.transfers⟩

theorem receivePacket_transfersTo (p : Params) (e : Engine) :
    e.TransfersTo (receivePacket p e) := by
  obtain ⟨evs, htrace, -, hends, -⟩ := receivePacketEnds p e
  exact ⟨evs, htrace, hends.transfers⟩

@[simp] theorem Sender.begin_port (p : Params) (b : List Byte) (h : Sender) :
    (h.begin p b).eng.port = h.eng.port := by
  unfold Sender.begin
  split <;> rfl

/-! ### The ends of an exchange -/

theorem Sender.afterSend_of_err {h : Sender} {k : ErrKind} (herr : h.eng.result = .err k) :
    h.afterSend = h.respondErr k := by
  rw [Sender.afterSend, herr]

/-- The Sender after both link operations of an exchange, the first of which ended `OK`: what is left
is what the XO makes of the second's end. -/
def Sender.operated (p : Params) (h : Sender) : Sender :=
  { h with
    xo := .recv
    txCsum := (sendPacket p h.eng).acc
    eng := receivePacket p (sendPacket p h.eng) }

section
variable {s : State}

/-- An error of the SendPacket goes upstream, and that is the whole exchange. -/
theorem State.exchange_of_send_err {k : ErrKind}
    (herr : (sendPacket s.cfg.host s.host.eng).result = .err k) : s.exchange =
      .next (s.onHost fun h => (h.onEng (sendPacket s.cfg.host)).respondErr k) := by
  rw [State.exchange_of_not_sent (by rw [herr]; nofun), State.sendRequest, State.onHost,
    Sender.afterSend_of_err (by exact herr)]
  rfl

theorem State.sendRequest_of_ok (hok : (sendPacket s.cfg.host s.host.eng).result = .ok) :
    s.sendRequest = s.onHost fun h => { h with
      xo := .settle
      txCsum := (sendPacket s.cfg.host h.eng).acc
      eng := sendPacket s.cfg.host h.eng } := by
  rw [State.sendRequest, State.onHost, Sender.afterSend_of_ok (by exact hok)]
  rfl

/-- Past a SendPacket that ended `OK` the exchange is what the XO makes of the ReceivePacket's end. -/
theorem State.exchange_of_send_ok (hok : (sendPacket s.cfg.host s.host.eng).result = .ok) :
    s.exchange = .next (s.onHost fun h => (h.operated s.cfg.host).afterReceive) := by
  rw [State.exchange_of_sent hok, State.awaitReply_eq, State.sendRequest_of_ok hok]
  rfl

/-- An error of the ReceivePacket goes upstream, and nothing follows it. -/
theorem State.exchange_of_receive_err {k : ErrKind}
    (hok : (sendPacket s.cfg.host s.host.eng).result = .ok)
    (herr : (s.host.operated s.cfg.host).eng.result = .err k) : s.exchange =
      .next (s.onHost fun h => (h.operated s.cfg.host).respondErr k) := by
  rw [State.exchange_of_send_ok hok, State.onHost, Sender.afterReceive_of_err herr, State.onHost]

/-- Past two link operations that ended `OK` the delivered packet goes upstream. -/
theorem State.exchange_of_receive_ok (hok : (sendPacket s.cfg.host s.host.eng).result = .ok)
    (hgot : (s.host.operated s.cfg.host).eng.result = .ok) : s.exchange =
      .next (s.onHost fun h => (h.operated s.cfg.host).respondOk
        (s.host.operated s.cfg.host).eng.rxPacket) := by
  rw [State.exchange_of_send_ok hok, State.onHost, Sender.afterReceive_of_ok hgot, State.onHost]

end

/-- Settles O46: the exchange ends with the error of its SendPacket, else with the error of its
ReceivePacket, else with the reply. -/
theorem exchangeAlwaysResponds : Obligations.ExchangeAlwaysResponds := by
  intro s b rs hs ht hr hi hx hreq
  have hstep := step_exchange hs ht hr hi hx hreq
  have hsend := sendPacket_transfersTo s.cfg.host (s.host.begin s.cfg.host b).eng
  have hboth := hsend.trans (receivePacket_transfersTo s.cfg.host _)
  rw [Engine.TransfersTo, Sender.begin_port] at hsend hboth
  cases hsent : (sendPacket s.cfg.host (s.host.begin s.cfg.host b).eng).result with
  | err k =>
    obtain ⟨evs, htrace, hevs⟩ := hsend
    refine ⟨_, .err k, evs, hstep.trans (State.exchange_of_send_err hsent), rfl, sendPacket_state,
      rfl, rfl, rfl, congrArg (· ++ _) htrace, hevs, ?_, ?_, ?_, nofun⟩
    · rintro _ ⟨⟩
      exact ⟨rfl, hsent⟩
    · rintro k' e rfl herr
      obtain rfl : k = k' := Result.err.inj (hsent.symm.trans herr)
      exact ⟨rfl, rfl⟩
    · rintro k' e e' rfl hok
      exact absurd (hsent.symm.trans hok) nofun
  | ok =>
    obtain ⟨evs, htrace, hevs⟩ := hboth
    cases hgot : (receivePacket s.cfg.host
        (sendPacket s.cfg.host (s.host.begin s.cfg.host b).eng)).result with
    | err k =>
      refine ⟨_, .err k, evs, hstep.trans (State.exchange_of_receive_err hsent hgot), rfl,
        receivePacket_state, rfl, rfl, rfl, congrArg (· ++ _) htrace, hevs, ?_, ?_, ?_, nofun⟩
      · rintro _ ⟨⟩
        exact ⟨rfl, hgot⟩
      · rintro k' e rfl herr
        exact absurd (hsent.symm.trans herr) nofun
      · rintro k' e e' rfl - rfl herr
        obtain rfl : k = k' := Result.err.inj (hgot.symm.trans herr)
        exact ⟨rfl, rfl⟩
    | ok =>
      refine ⟨_, .ok _ _ _, evs, hstep.trans (State.exchange_of_receive_ok hsent hgot), rfl,
        receivePacket_state, rfl, rfl, rfl, congrArg (· ++ _) htrace, hevs, nofun, ?_, ?_, ?_⟩
      · rintro k' e rfl herr
        exact absurd (hsent.symm.trans herr) nofun
      · rintro k' e e' rfl - rfl herr
        exact absurd (hgot.symm.trans herr) nofun
      · rintro _ _ _ ⟨⟩
        exact ⟨hgot, rfl, rfl, rfl⟩

end Sys2Proof.Machine
end

section
/-! SUPPORT. A transition of two linked peers on a channel that pairs transfers (60_exceptions.md rule
R219): a peer alone, the pair, which of the two moves when not both have an `Xfer` outstanding; then the
statement. -/

namespace Sys2Proof.Machine

section
variable {s : State} {loneTarget loneHost : Option Byte}

/-! ### A peer alone -/

theorem State.targetAlone_of_paired_idle (hc : s.cfg.channel = .paired loneTarget loneHost)
    (hi : s.target.eng.state = .idle) : s.targetAlone = s.targetLocal := by
  simp only [State.targetAlone, hc, if_pos hi]

theorem State.targetAlone_of_paired_busy (hc : s.cfg.channel = .paired loneTarget loneHost)
    (hb : s.target.eng.state ≠ .idle) : s.targetAlone = s.targetYield (loneYield loneTarget) := by
  simp only [State.targetAlone, hc, if_neg hb]

theorem State.hostAlone_of_paired_idle (hc : s.cfg.channel = .paired loneTarget loneHost)
    (hi : s.host.eng.state = .idle) : s.hostAlone = s.hostLocal := by
  simp only [State.hostAlone, hc, if_pos hi]

theorem State.hostAlone_of_paired_busy (hc : s.cfg.channel = .paired loneTarget loneHost)
    (hb : s.host.eng.state ≠ .idle) : s.hostAlone = s.hostYield (loneYield loneHost) := by
  simp only [State.hostAlone, hc, if_neg hb]

/-! ### Which peer moves -/

theorem State.hostCanMove_iff : s.hostCanMove = true ↔ s.host.xo ≠ .idle ∨ s.requests ≠ [] := by
  simp [State.hostCanMove]

theorem State.hostCanMove_eq_false_iff :
    s.hostCanMove = false ↔ s.host.xo = .idle ∧ s.requests = [] := by
  simp [State.hostCanMove]

/-- A Responder with its LE idle moves unless the pace gives the Sender the turn. -/
theorem State.oneMove_of_target_idle {who : Option Role} (hi : s.target.eng.state = .idle)
    (hwho : who ≠ some .sender) : s.oneMove who = s.targetAlone := by
  match who with
  | none => exact if_pos hi
  | some .responder => rfl
  | some .sender => exact absurd rfl hwho

/-- Beside an idle Sender the Responder's `Xfer` finds no partner where the pace says so, or where it
says nothing and the Sender has no move. -/
theorem State.oneMove_of_host_waits {who : Option Role} (hb : s.target.eng.state ≠ .idle)
    (hi : s.host.eng.state = .idle)
    (hwho : who = some .responder ∨ (who = none ∧ s.host.xo = .idle ∧ s.requests = [])) :
    s.oneMove who = s.targetAlone := by
  obtain rfl | ⟨rfl, hwaits⟩ := hwho
  · rfl
  · exact (if_neg hb).trans (if_pos ⟨hi, State.hostCanMove_eq_false_iff.2 hwaits⟩)

/-- A Sender with its LE idle moves where the pace says so, or where it says nothing and there is a move
to make. -/
theorem State.oneMove_of_host_moves {who : Option Role} (hb : s.target.eng.state ≠ .idle)
    (hwho : who = some .sender ∨ (who = none ∧ (s.host.xo ≠ .idle ∨ s.requests ≠ []))) :
    s.oneMove who = s.hostAlone := by
  obtain rfl | ⟨rfl, hmoves⟩ := hwho
  · rfl
  · have hcan := State.hostCanMove_iff.2 hmoves
    exact (if_neg hb).trans (if_neg fun h => by simp [hcan] at h)

/-! ### One transition of the link -/

/-- The state a transition of the link starts from. -/
def State.paced (s : State) : State := { s with pace := s.pace.tail }

/-- Two outstanding `Xfer`s pair, whatever the pace. -/
theorem State.linkMove_of_both_busy (hc : s.cfg.channel = .paired loneTarget loneHost)
    (ht : s.target.eng.state ≠ .idle) (hh : s.host.eng.state ≠ .idle) :
    s.linkMove = s.paced.pairXfers := by
  rw [State.linkMove, if_pos ⟨ht, hh⟩, State.bothMove]
  simp only [hc]
  rfl

theorem State.linkMove_of_target_idle (hi : s.target.eng.state = .idle) :
    s.linkMove = s.paced.oneMove (s.pace.headD none) :=
  if_neg fun h => h.1 hi

theorem State.linkMove_of_host_idle (hi : s.host.eng.state = .idle) :
    s.linkMove = s.paced.oneMove (s.pace.headD none) :=
  if_neg fun h => h.2 hi

/-- The state in which a pair of transfers has yielded `yt` to the Responder and `yh` to the Sender,
`noise` being left of the draws. -/
def State.paired (yt yh : Yield) (noise : List Noise) (s : State) : State :=
  { s with
    noise := noise
    pace := s.pace.tail
    target := (s.target.onEng (Engine.onYield s.cfg.target yt)).reactIfIdle
    host := (s.host.onEng (Engine.onYield s.cfg.host yh)).reactIfIdle }

/-- A pair of transfers yields what the draw says, and the draw is used up. -/
theorem State.pairXfers_paced {yt yh : Yield} (hdraw : s.draw.yields
      (s.target.eng.txByte s.cfg.target) (s.host.eng.txByte s.cfg.host) = (yt, yh)) :
    s.paced.pairXfers = s.paired yt yh s.noise.tail := by
  have hpaced : s.paced.draw.yields (s.paced.target.eng.txByte s.paced.cfg.target)
      (s.paced.host.eng.txByte s.paced.cfg.host) = (yt, yh) := hdraw
  rw [State.pairXfers, hpaced]
  rfl

end

/-- Settles O60: both peers with an `Xfer` outstanding pair by the draw; else one moves alone, by the
pace. -/
theorem lockstepPairsTransfers : Obligations.LockstepPairsTransfers := by
  refine ⟨rfl, fun s loneTarget loneHost hc => ⟨?_, ?_⟩⟩
  · rintro ht hh a b rfl rfl yields rfl
    have hpair {yt yh : Yield} (hdraw : s.draw.yields _ _ = (yt, yh)) :
        s.linkMove = s.paired yt yh s.noise.tail :=
      (State.linkMove_of_both_busy hc ht hh).trans (State.pairXfers_paced hdraw)
    simp only [State.draw] at hpair
    refine ⟨fun hn => ?_, fun rest hn => ?_, fun rest hn => ?_, fun v w rest hn => ?_⟩
    all_goals
      rw [hn] at hpair
      exact hpair rfl
  · rintro _ rfl
    refine ⟨fun ht hh => ?_, fun ht hh => ?_, fun ht hh => ?_⟩
    · rw [State.linkMove_of_host_idle hh]
      exact ⟨fun hwho => (State.oneMove_of_host_waits (s := s.paced) ht hh hwho).trans
          (State.targetAlone_of_paired_busy hc ht),
        fun hwho => (State.oneMove_of_host_moves (s := s.paced) ht hwho).trans
          (State.hostAlone_of_paired_idle hc hh)⟩
    · rw [State.linkMove_of_target_idle ht]
      exact ⟨fun hwho => hwho ▸ State.hostAlone_of_paired_busy hc hh,
        fun hwho => (State.oneMove_of_target_idle (s := s.paced) ht hwho).trans
          (State.targetAlone_of_paired_idle hc ht)⟩
    · rw [State.linkMove_of_target_idle ht]
      exact ⟨fun hwho => hwho ▸ State.hostAlone_of_paired_idle hc hh,
        fun hwho => (State.oneMove_of_target_idle (s := s.paced) ht hwho).trans
          (State.targetAlone_of_paired_idle hc ht)⟩

end Sys2Proof.Machine
end
